-- ==== Sys2Proof/Word.lean ====
section
/-! DEFINITION. The widths the spec gives its values (spec/00_scope.md R4, R6, R7): every value is an unsigned bit
vector, bit 0 the least significant. -/

namespace Sys2Proof

/-- An 8-bit value: a general register, a timer, a memory byte, the immediate nn (R4 VREG_W, TIMER_W; R91). -/
abbrev Byte := BitVec 8

/-- A 16-bit value: an instruction word, PC, I, a call-stack entry, a key sample (R4 INSN_W, PC_W, I_W, STACK_ENTRY_W). -/
abbrev Word := BitVec 16

/-- A 4-bit register number, an x or y field (30_encoding.md R91, R94). -/
abbrev RegIx := BitVec 4

/-- A 4-bit immediate, the n field (30_encoding.md R91). -/
abbrev Nibble := BitVec 4

/-- A 12-bit address, the nnn field (30_encoding.md R91, R93). -/
abbrev Addr12 := BitVec 12

end Sys2Proof
end

