-- ==== Sys2Proof/Syntax.lean ====
section
/-! DEFINITION. The instructions: one constructor per row of spec/opcode_table.json, in the table's order, with the
operand fields of spec/30_encoding.md R91 and R92. The y field of SHR and SHL is kept (it is decoded, R92) although no
operation reads it (R100). -/

namespace Sys2Proof

/-- The 34 instructions of 30_encoding.md R96. -/
inductive Instr where
  /-- 00E0 CLS (44_display.md R251) -/
  | cls
  /-- 00EE RET (41_control_flow.md R151) -/
  | ret
  /-- 1nnn JP nnn (R152) -/
  | jp (nnn : Addr12)
  /-- 2nnn CALL nnn (R153) -/
  | call (nnn : Addr12)
  /-- 3xnn SE Vx, nn (R154) -/
  | seVB (x : RegIx) (nn : Byte)
  /-- 4xnn SNE Vx, nn (R155) -/
  | sneVB (x : RegIx) (nn : Byte)
  /-- 5xy0 SE Vx, Vy (R156) -/
  | seVV (x y : RegIx)
  /-- 6xnn LD Vx, nn (42_alu.md R181) -/
  | ldVB (x : RegIx) (nn : Byte)
  /-- 7xnn ADD Vx, nn (R182) -/
  | addVB (x : RegIx) (nn : Byte)
  /-- 8xy0 LD Vx, Vy (R183) -/
  | ldVV (x y : RegIx)
  /-- 8xy1 OR Vx, Vy (R184) -/
  | orVV (x y : RegIx)
  /-- 8xy2 AND Vx, Vy (R185) -/
  | andVV (x y : RegIx)
  /-- 8xy3 XOR Vx, Vy (R186) -/
  | xorVV (x y : RegIx)
  /-- 8xy4 ADD Vx, Vy (R187) -/
  | addVV (x y : RegIx)
  /-- 8xy5 SUB Vx, Vy (R188) -/
  | sub (x y : RegIx)
  /-- 8xy6 SHR Vx (R189); y is decoded and ignored (R100) -/
  | shr (x y : RegIx)
  /-- 8xy7 SUBN Vx, Vy (R190) -/
  | subn (x y : RegIx)
  /-- 8xyE SHL Vx (R191); y is decoded and ignored (R100) -/
  | shl (x y : RegIx)
  /-- 9xy0 SNE Vx, Vy (R157) -/
  | sneVV (x y : RegIx)
  /-- Annn LD I, nnn (43_index_memory.md R220) -/
  | ldI (nnn : Addr12)
  /-- Bnnn JP V0, nnn (R158) -/
  | jpV0 (nnn : Addr12)
  /-- Cxnn RND Vx, nn (R192) -/
  | rnd (x : RegIx) (nn : Byte)
  /-- Dxyn DRW Vx, Vy, n (R252) -/
  | drw (x y : RegIx) (n : Nibble)
  /-- Ex9E SKP Vx (45_timers_input.md R284) -/
  | skp (x : RegIx)
  /-- ExA1 SKNP Vx (R285) -/
  | sknp (x : RegIx)
  /-- Fx07 LD Vx, DT (R280) -/
  | ldVDT (x : RegIx)
  /-- Fx0A LD Vx, K (R286) -/
  | ldVK (x : RegIx)
  /-- Fx15 LD DT, Vx (R281) -/
  | ldDTV (x : RegIx)
  /-- Fx18 LD ST, Vx (R282) -/
  | ldSTV (x : RegIx)
  /-- Fx1E ADD I, Vx (R221) -/
  | addIV (x : RegIx)
  /-- Fx29 LD F, Vx (R222) -/
  | ldFV (x : RegIx)
  /-- Fx33 LD B, Vx (R223) -/
  | ldBV (x : RegIx)
  /-- Fx55 LD [I], Vx (R224) -/
  | ldMV (x : RegIx)
  /-- Fx65 LD Vx, [I] (R225) -/
  | ldVM (x : RegIx)
  deriving DecidableEq, Repr

end Sys2Proof
end

