-- ==== Sys2Proof/Decode.lean ====
section
/-! DEFINITION. The decoder and the encoder, from the opcode map of spec/30_encoding.md R96. The decoder is total on
words (R103), rejects every illegal word by the class it falls in (R97), and reads nothing but the word. -/

namespace Sys2Proof

/-- Why no instruction is read: an illegal word, by its class in 30_encoding.md R97, or fewer than two bytes. -/
inductive Reject where
  /-- fewer bytes than one instruction word (R90) -/
  | truncated
  /-- class 0x0, neither 00E0 nor 00EE: 0000 and every historic 0nnn -/
  | class0
  /-- class 0x5, 5xyk with k ≠ 0 -/
  | class5
  /-- class 0x8, 8xyk with k one of 8, 9, A, B, C, D, F -/
  | class8
  /-- class 0x9, 9xyk with k ≠ 0 -/
  | class9
  /-- class 0xE, low byte neither 9E nor A1 -/
  | classE
  /-- class 0xF, low byte none of 07 0A 15 18 1E 29 33 55 65 -/
  | classF
  deriving DecidableEq, Repr

/-- `w[15:12]`, the operation class (R91). -/
def opField (w : Word) : BitVec 4 := w.extractLsb' 12 4

/-- `x = w[11:8]` (R91). -/
def xField (w : Word) : RegIx := w.extractLsb' 8 4

/-- `y = w[7:4]` (R91). -/
def yField (w : Word) : RegIx := w.extractLsb' 4 4

/-- `n = w[3:0]` (R91). -/
def nField (w : Word) : Nibble := w.extractLsb' 0 4

/-- `nn = w[7:0]` (R91). -/
def nnField (w : Word) : Byte := w.extractLsb' 0 8

/-- `nnn = w[11:0]` (R91). -/
def nnnField (w : Word) : Addr12 := w.extractLsb' 0 12

/-- Class 0x0, dispatched on all twelve low bits (R95, R96; the x field is fixed too). -/
def decodeClass0 (w : Word) : Except Reject Instr :=
  match (nnnField w).toNat with
  | 0x0E0 => .ok .cls
  | 0x0EE => .ok .ret
  | _ => .error .class0

/-- Class 0x8, dispatched on the low nibble (R95, R96). -/
def decodeClass8 (w : Word) : Except Reject Instr :=
  match (nField w).toNat with
  | 0x0 => .ok (.ldVV (xField w) (yField w))
  | 0x1 => .ok (.orVV (xField w) (yField w))
  | 0x2 => .ok (.andVV (xField w) (yField w))
  | 0x3 => .ok (.xorVV (xField w) (yField w))
  | 0x4 => .ok (.addVV (xField w) (yField w))
  | 0x5 => .ok (.sub (xField w) (yField w))
  | 0x6 => .ok (.shr (xField w) (yField w))
  | 0x7 => .ok (.subn (xField w) (yField w))
  | 0xE => .ok (.shl (xField w) (yField w))
  | _ => .error .class8

/-- Class 0xE, dispatched on the low byte (R95, R96). -/
def decodeClassE (w : Word) : Except Reject Instr :=
  match (nnField w).toNat with
  | 0x9E => .ok (.skp (xField w))
  | 0xA1 => .ok (.sknp (xField w))
  | _ => .error .classE

/-- Class 0xF, dispatched on the low byte (R95, R96). -/
def decodeClassF (w : Word) : Except Reject Instr :=
  match (nnField w).toNat with
  | 0x07 => .ok (.ldVDT (xField w))
  | 0x0A => .ok (.ldVK (xField w))
  | 0x15 => .ok (.ldDTV (xField w))
  | 0x18 => .ok (.ldSTV (xField w))
  | 0x1E => .ok (.addIV (xField w))
  | 0x29 => .ok (.ldFV (xField w))
  | 0x33 => .ok (.ldBV (xField w))
  | 0x55 => .ok (.ldMV (xField w))
  | 0x65 => .ok (.ldVM (xField w))
  | _ => .error .classF

/-- The decode of R95: dispatch on the top nibble, then on the low nibble or byte for classes 0, 8, E and F; classes 5
and 9 match only with a low nibble of 0. -/
def decode (w : Word) : Except Reject Instr :=
  match (opField w).toNat with
  | 0x0 => decodeClass0 w
  | 0x1 => .ok (.jp (nnnField w))
  | 0x2 => .ok (.call (nnnField w))
  | 0x3 => .ok (.seVB (xField w) (nnField w))
  | 0x4 => .ok (.sneVB (xField w) (nnField w))
  | 0x5 => if nField w = 0 then .ok (.seVV (xField w) (yField w)) else .error .class5
  | 0x6 => .ok (.ldVB (xField w) (nnField w))
  | 0x7 => .ok (.addVB (xField w) (nnField w))
  | 0x8 => decodeClass8 w
  | 0x9 => if nField w = 0 then .ok (.sneVV (xField w) (yField w)) else .error .class9
  | 0xA => .ok (.ldI (nnnField w))
  | 0xB => .ok (.jpV0 (nnnField w))
  | 0xC => .ok (.rnd (xField w) (nnField w))
  | 0xD => .ok (.drw (xField w) (yField w) (nField w))
  | 0xE => decodeClassE w
  | _ => decodeClassF w

/-- Two consecutive bytes as an instruction word: the first is bits 15..8 (20_memory.md R60). -/
def wordOfBytes (hi lo : Byte) : Word := hi ++ lo

/-- The byte of a word that is stored first, bits 15..8 (R60). -/
def wordHi (w : Word) : Byte := w.extractLsb' 8 8

/-- The byte of a word that is stored second, bits 7..0 (R60). -/
def wordLo (w : Word) : Byte := w.extractLsb' 0 8

/-- The decoder on bytes: the instruction at their head and the bytes after it. -/
def decodeBytes : List Byte → Except Reject (Instr × List Byte)
  | hi :: lo :: rest => (decode (wordOfBytes hi lo)).map fun i => (i, rest)
  | _ => .error .truncated

/-- Format F-XNN (R92): a class nibble, x and nn. -/
def encodeXNN (op : BitVec 4) (x : RegIx) (nn : Byte) : Word := op ++ (x ++ nn)

/-- Format F-XY (R92), and F-XYN with the row count in the last nibble: a class nibble, x, y and the low nibble. -/
def encodeXY (op : BitVec 4) (x y : RegIx) (s : BitVec 4) : Word := op ++ (x ++ (y ++ s))

/-- Format F-A (R92): a class nibble and nnn. -/
def encodeA (op : BitVec 4) (nnn : Addr12) : Word := op ++ nnn

/-- The word of an instruction, from the patterns of R96. Format F-X is F-XNN with a fixed low byte. -/
def encode : Instr → Word
  | .cls => encodeA 0x0 0x0E0
  | .ret => encodeA 0x0 0x0EE
  | .jp nnn => encodeA 0x1 nnn
  | .call nnn => encodeA 0x2 nnn
  | .seVB x nn => encodeXNN 0x3 x nn
  | .sneVB x nn => encodeXNN 0x4 x nn
  | .seVV x y => encodeXY 0x5 x y 0x0
  | .ldVB x nn => encodeXNN 0x6 x nn
  | .addVB x nn => encodeXNN 0x7 x nn
  | .ldVV x y => encodeXY 0x8 x y 0x0
  | .orVV x y => encodeXY 0x8 x y 0x1
  | .andVV x y => encodeXY 0x8 x y 0x2
  | .xorVV x y => encodeXY 0x8 x y 0x3
  | .addVV x y => encodeXY 0x8 x y 0x4
  | .sub x y => encodeXY 0x8 x y 0x5
  | .shr x y => encodeXY 0x8 x y 0x6
  | .subn x y => encodeXY 0x8 x y 0x7
  | .shl x y => encodeXY 0x8 x y 0xE
  | .sneVV x y => encodeXY 0x9 x y 0x0
  | .ldI nnn => encodeA 0xA nnn
  | .jpV0 nnn => encodeA 0xB nnn
  | .rnd x nn => encodeXNN 0xC x nn
  | .drw x y n => encodeXY 0xD x y n
  | .skp x => encodeXNN 0xE x 0x9E
  | .sknp x => encodeXNN 0xE x 0xA1
  | .ldVDT x => encodeXNN 0xF x 0x07
  | .ldVK x => encodeXNN 0xF x 0x0A
  | .ldDTV x => encodeXNN 0xF x 0x15
  | .ldSTV x => encodeXNN 0xF x 0x18
  | .addIV x => encodeXNN 0xF x 0x1E
  | .ldFV x => encodeXNN 0xF x 0x29
  | .ldBV x => encodeXNN 0xF x 0x33
  | .ldMV x => encodeXNN 0xF x 0x55
  | .ldVM x => encodeXNN 0xF x 0x65

/-- The bits of `w` below `nbits`, as an instruction word; the bits above are 0. -/
def tableWord (nbits w : Nat) : Word := BitVec.ofNat 16 (w % 2 ^ nbits)

/-- The instruction the decoder reads from the bytes of an opcode-table word, laid out as memory holds them: the high
byte first (R60). -/
def decodeTableWord (nbits w : Nat) : Option Instr :=
  match decodeBytes [wordHi (tableWord nbits w), wordLo (tableWord nbits w)] with
  | .ok (i, _) => some i
  | .error _ => none

end Sys2Proof
end

