-- ==== Sys2Proof/Config.lean ====
section
/-! DEFINITION. The parameters of spec/00_scope.md R4 at the values this hardware takes, and the free values: draws
that the environment supplies and on which the spec places no law (R10). Every parameter marked UNVERIFIED is the
spec's own decision (92_eei_decisions.md), not its source's: assumption log 12 to 14. -/

namespace Sys2Proof

/-- What a collaborator answers to one query or present (00_scope.md R10): a value, or a failure. -/
inductive Answer (α : Type) where
  | value (a : α)
  | failure
  deriving DecidableEq, Repr, Inhabited

end Sys2Proof

namespace Sys2Proof.Config

/-- MEM_SIZE, 4096 bytes (R4; UNVERIFIED, the spec's decision D2, log 12). -/
abbrev memSize : Nat := 0x1000

/-- PROGRAM_OFFSET, the address of the first program byte and the reset PC (R4; UNVERIFIED, D3, log 12). -/
abbrev programOffset : Nat := 0x200

/-- FONT_BASE, the address of glyph 0 (R4; UNVERIFIED, D4, log 12). -/
abbrev fontBase : Nat := 0x000

/-- FONT_GLYPHS (R4; UNVERIFIED, D5, log 12). -/
abbrev fontGlyphs : Nat := 16

/-- GLYPH_BYTES (R4, from Fx29's "font-base + 5·Vx"). -/
abbrev glyphBytes : Nat := 5

/-- FONT_SIZE, 80 bytes: FONT_GLYPHS × GLYPH_BYTES (R4). -/
abbrev fontSize : Nat := 80

/-- DISP_W, the framebuffer's width in pixels (R4; UNVERIFIED, D6, log 12). -/
abbrev dispW : Nat := 64

/-- DISP_H, the framebuffer's height in pixels (R4; UNVERIFIED, D6, log 12). -/
abbrev dispH : Nat := 32

/-- STACK_DEPTH, the call stack's capacity in entries (R4; UNVERIFIED, D7, log 12). -/
abbrev stackDepth : Nat := 16

/-- SPRITE_W, the width of a sprite row in pixels (R4). -/
abbrev spriteW : Nat := 8

/-- NKEYS, the number of virtual keys (R4). -/
abbrev nKeys : Nat := 16

/-- FONT_DATA: the 80 glyph bytes, five a glyph, in the order of the table of 44_display.md R258
(UNVERIFIED, D5, log 12). -/
def fontData : List Byte :=
  [0xF0, 0x90, 0x90, 0x90, 0xF0] ++ [0x20, 0x60, 0x20, 0x20, 0x70] ++   -- 0 1
  [0xF0, 0x10, 0xF0, 0x80, 0xF0] ++ [0xF0, 0x10, 0xF0, 0x10, 0xF0] ++   -- 2 3
  [0x90, 0x90, 0xF0, 0x10, 0x10] ++ [0xF0, 0x80, 0xF0, 0x10, 0xF0] ++   -- 4 5
  [0xF0, 0x80, 0xF0, 0x90, 0xF0] ++ [0xF0, 0x10, 0x20, 0x40, 0x40] ++   -- 6 7
  [0xF0, 0x90, 0xF0, 0x90, 0xF0] ++ [0xF0, 0x90, 0xF0, 0x10, 0xF0] ++   -- 8 9
  [0xF0, 0x90, 0xF0, 0x90, 0x90] ++ [0xE0, 0x90, 0xE0, 0x90, 0xE0] ++   -- A B
  [0xF0, 0x80, 0x80, 0x80, 0xF0] ++ [0xE0, 0x90, 0x90, 0x90, 0xE0] ++   -- C D
  [0xF0, 0x80, 0xF0, 0x80, 0xF0] ++ [0xF0, 0x80, 0xF0, 0x80, 0x80]      -- E F

/-- The values of the parameter FONT_WRITE: what a store into the font region does (20_memory.md R66). -/
inductive FontWrite where
  | fault
  | store
  | ignore
  deriving DecidableEq, Repr

/-- FONT_WRITE: this hardware takes `fault` (R4, R66; UNVERIFIED, D14, log 13). -/
def fontWrite : FontWrite := .fault

/-- The values of the parameter KEYWAIT_TRIGGER: what ends the key wait (45_timers_input.md R287, R290). -/
inductive KeywaitTrigger where
  | edge
  | level
  deriving DecidableEq, Repr

/-- KEYWAIT_TRIGGER: this hardware takes `edge` (R4, R287, 90_conflicts.md C1; UNVERIFIED, D18, log 14). -/
def keywaitTrigger : KeywaitTrigger := .edge

/-- The value RESET_POLICY = `zero` gives every byte of free memory (20_memory.md R69; UNVERIFIED, D8, log 10). -/
def freeByte : Byte := 0x00

/-- Free value: the answer to a key query for which State lists none, a sample or a failure (00_scope.md R10, "a draw, on
which the spec places no law"; DESIGN CHOICE in its form, log 3). No body: nothing in Lean knows a value of it. -/
opaque freeKeys : Nat → Answer Word

/-- Free value: the answer of the random provider to a Cxnn for which State lists none, a byte or a failure (R10,
42_alu.md R192, 60_exceptions.md R314; DESIGN CHOICE in its form, log 3). No body. -/
opaque freeRandom : Nat → Answer Byte

/-- Free value: the renderer's answer to a present for which State lists none, success or a failure (R10, 44_display.md
R257; DESIGN CHOICE in its form, log 3). No body. -/
opaque freePresent : Nat → Answer Unit

/-- The numeric parameters of R4 that the constraints of R5 speak of. -/
structure Params where
  memSize       : Nat
  programOffset : Nat
  fontBase      : Nat
  fontSize      : Nat
  dispW         : Nat
  dispH         : Nat
  stackDepth    : Nat
  deriving DecidableEq, Repr

/-- The values this hardware takes, as one record for the check of R5. -/
def params : Params :=
  { memSize := memSize, programOffset := programOffset, fontBase := fontBase, fontSize := fontSize,
    dispW := dispW, dispH := dispH, stackDepth := stackDepth }

end Sys2Proof.Config
end

