-- ==== Sys2Proof/Machine/Memory.lean ====
section
/-! DEFINITION. The memory: one flat space of MEM_SIZE bytes (spec/20_memory.md R63), held as the list of the bytes
that differ from the reset contents, in one canonical form. Every address is reduced modulo MEM_SIZE at the access
(R64, 00_scope.md R9). -/

namespace Sys2Proof.Machine

/-- The bytes that differ from what an unlisted address reads as. -/
abbrev Memory := List Host.Cell

/-- A reduced address lies in the font region, FONT_BASE to FONT_BASE + 79 (20_memory.md R66). -/
def inFont (a : Nat) : Bool := decide (Config.fontBase ≤ a ∧ a < Config.fontBase + Config.fontSize)

/-- What an unlisted address reads as, the contents after the construction of 70_reset_and_hazards.md R350 from an
empty image: FONT_DATA in the font region (44_display.md R258), 0x00 elsewhere (20_memory.md R69). UNVERIFIED, the
spec's decisions D5 and D8, log 10. -/
def Memory.unlisted (a : Nat) : Byte :=
  if inFont a then Config.fontData.getD (a - Config.fontBase) 0 else Config.freeByte

/-- The byte at a reduced address. -/
def Memory.lookup : Memory → Nat → Byte
  | [], a => Memory.unlisted a
  | (k, b) :: m, a => if a = k then b else Memory.lookup m a

/-- MemRead(a, 1) (00_scope.md R9): the byte at `a mod MEM_SIZE`. -/
def Memory.read (m : Memory) (a : Nat) : Byte := Memory.lookup m (a % Config.memSize)

/-- List the byte `b` at address `a`, keeping the addresses rising. -/
def Memory.insert : Memory → Nat → Byte → Memory
  | [], a, b => [(a, b)]
  | (k, c) :: m, a, b =>
    if a < k then (a, b) :: (k, c) :: m else if a = k then (a, b) :: m else (k, c) :: Memory.insert m a b

/-- Take the address `a` off the list. -/
def Memory.erase : Memory → Nat → Memory
  | [], _ => []
  | (k, c) :: m, a => if a = k then Memory.erase m a else (k, c) :: Memory.erase m a

/-- MemWrite(a, 1, v) without the font rule (00_scope.md R9): the byte at `a mod MEM_SIZE` becomes `v`. -/
def Memory.write (m : Memory) (a : Nat) (v : Byte) : Memory :=
  if v = Memory.unlisted (a % Config.memSize) then Memory.erase m (a % Config.memSize)
  else Memory.insert m (a % Config.memSize) v

/-- Every listed address is above `lo`, the addresses rise, each exists, and no entry equals the unlisted value. -/
def Memory.wfFrom : Nat → Memory → Bool
  | _, [] => true
  | lo, (k, b) :: m =>
    decide (lo ≤ k) && decide (k < Config.memSize) && decide (b ≠ Memory.unlisted k) && Memory.wfFrom (k + 1) m

/-- The canonical form: equal memories are equal lists. -/
def Memory.wf (m : Memory) : Bool := Memory.wfFrom 0 m

/-- Writes of consecutive bytes from `a` on, each address reduced (20_memory.md R64, R70). -/
def Memory.writeBytes (m : Memory) (a : Nat) : List Byte → Memory
  | [] => m
  | v :: vs => Memory.writeBytes (m.write a v) (a + 1) vs

/-- The writes of FONT_WRITE = `ignore` (20_memory.md R66): a byte aimed at the font region is not written. -/
def Memory.writeOutsideFont (m : Memory) (a : Nat) : List Byte → Memory
  | [] => m
  | v :: vs => Memory.writeOutsideFont (if inFont (a % Config.memSize) then m else m.write a v) (a + 1) vs

/-- The first of the targets `a .. a+n-1`, each reduced, that lies in the font region (43_index_memory.md R227: "the
lowest such address in access order"; DEDUCED, log 24). -/
def fontTarget (a n : Nat) : Option Nat :=
  ((List.range n).map fun k => (a + k) % Config.memSize).find? inFont

/-- The store of a block under the parameter FONT_WRITE (20_memory.md R66, 43_index_memory.md R227): the new memory, or
under `fault` the offending address, every target being checked before any byte is written. -/
def Memory.storeBlock (p : Config.FontWrite) (a : Nat) (bytes : List Byte) (m : Memory) : Except Nat Memory :=
  match p with
  | .fault =>
    match fontTarget a bytes.length with
    | some t => .error t
    | none => .ok (m.writeBytes a bytes)
  | .store => .ok (m.writeBytes a bytes)
  | .ignore => .ok (m.writeOutsideFont a bytes)

end Sys2Proof.Machine
end

