-- ==== Sys2Proof/Machine/State.lean ====
section
/-! DEFINITION. The state of the core (spec/10_state.md), as plain data, with the ports of 40_step.md R121 as queues
and lists, the reasons a step can stop, and the state after reset. -/

namespace Sys2Proof.Machine

/-- The error kinds of 60_exceptions.md R311. -/
inductive ErrorKind where
  | decodeError
  | stackUnderflow
  | loadOverflow
  | capabilityError
  | stackOverflow
  | fontWrite
  | keyIndexRange
  deriving DecidableEq, Repr

/-- The collaborators a query or a present can fail at (60_exceptions.md R311, R314). -/
inductive Collaborator where
  | input
  | random
  | renderer
  deriving DecidableEq, Repr

/-- The `info` of an error record (60_exceptions.md R311). -/
inductive ErrorInfo where
  | none
  /-- LoadOverflow: L, the image length -/
  | length (L : Nat)
  /-- CapabilityError: which collaborator -/
  | collaborator (c : Collaborator)
  /-- FontWrite: the offending address -/
  | address (a : Word)
  /-- KeyIndexRange: Vx -/
  | key (vx : Byte)
  deriving DecidableEq, Repr

/-- The error record `err` (10_state.md R35). -/
structure ErrorRecord where
  kind : ErrorKind
  code : Nat
  pc   : Option Word
  word : Option Word
  info : ErrorInfo
  deriving DecidableEq, Repr

/-- The run state (10_state.md R33). `halted` carries the kind of the error (60_exceptions.md R316), whose record is
`err`. -/
inductive Mode where
  | running
  | awaitingKey (x : RegIx)
  | halted (kind : ErrorKind)
  | stopped
  deriving DecidableEq, Repr

/-- The kinds of transition (40_step.md R122). -/
inductive Transition where
  | step
  | tick
  | cancel
  deriving DecidableEq, Repr

/-- The framebuffer (10_state.md R36): DISP_H rows of DISP_W pixels, row 0 the top, column 0 the left. -/
abbrev Framebuffer := Vector (Vector Bool Config.dispW) Config.dispH

/-- The whole machine. Fields `v` to `mem` are the spec's state (the table of 10_state.md); the others are the ports
of 40_step.md R121 as data (DESIGN CHOICE, log 1, 2, 3, 5). -/
structure State where
  /-- V0..VF (R20) -/
  v : Vector Byte 16
  /-- PC (R23) -/
  pc : Word
  /-- I (R28) -/
  i : Word
  /-- S, the call stack, the top last (R30) -/
  stack : List Word
  /-- DT (R31) -/
  dt : Byte
  /-- ST (R32), the `st` port -/
  st : Byte
  /-- the run state (R33), with `err` the `status` port -/
  mode : Mode
  /-- kw_prev (R34) -/
  kwPrev : Word
  /-- the error record (R35) -/
  err : Option ErrorRecord
  /-- FB (R36), the `fb` port -/
  fb : Framebuffer
  /-- Mem (R37) -/
  mem : Memory
  /-- the framebuffers of the `present` events so far, oldest first (40_step.md R136; log 5) -/
  presented : List Framebuffer
  /-- the transitions the environment issues next; none listed: a Step (log 1) -/
  events : List Transition
  /-- the next answers of the `keys` port; none listed: a free value (log 2, 3) -/
  keysIn : List (Answer Word)
  /-- the next answers of the `rand` port; none listed: a free value (log 2, 3) -/
  randIn : List (Answer Byte)
  /-- the next answers of the renderer to a present; none listed: a free value (log 2, 3) -/
  presentIn : List (Answer Unit)
  /-- how many free values have been drawn (log 3) -/
  draws : Nat
  deriving DecidableEq, Repr

/-- Why the machine stops: no transition is enabled any more. -/
inductive Fault where
  /-- a transition asked of a core in mode Halted: none is enabled (40_step.md R131, 60_exceptions.md R321). Raised by
  `transition` alone; safe: the machine is stuck as the spec says it is. -/
  | halted (kind : ErrorKind)
  /-- a transition asked of a core in mode Stopped: none is enabled (40_step.md R131). Raised by `transition` alone;
  safe: the machine is stuck as the spec says it is. -/
  | stopped
  deriving DecidableEq, Repr

/-- Why an instruction has no meaning in the model. -/
inductive Refusal where
  /-- An instruction not modelled yet, by its mnemonic. Raised by a refused arm of `exec`, and there is none: every
  instruction has its meaning. Safe. -/
  | notModelled (mnemonic : String)
  deriving DecidableEq, Repr

/-- The state after construction from an empty image (70_reset_and_hazards.md R350, an image of L = 0 bytes is
accepted), the ports idle. The zero values of V, I, DT, ST, FB and kw_prev are the spec's own decision (UNVERIFIED, D9,
D18, log 11); the ports' values are the model's (DESIGN CHOICE, log 1, 2, 3, 5). -/
def State.reset : State :=
  { v := Vector.replicate 16 0x00
    pc := BitVec.ofNat 16 Config.programOffset
    i := 0x0000
    stack := []
    dt := 0
    st := 0
    mode := .running
    kwPrev := 0x0000
    err := none
    fb := Vector.replicate Config.dispH (Vector.replicate Config.dispW false)
    mem := []
    presented := []
    events := []
    keysIn := []
    randIn := []
    presentIn := []
    draws := 0 }

end Sys2Proof.Machine
end

