-- ==== Sys2Proof/Machine/Ops.lean ====
section
/-! DEFINITION. The named operations over the state that the instructions share: the registers, PC, the call stack,
error entry (spec/60_exceptions.md R316), and the queries of the ports (00_scope.md R10). The spec gives no return from
an error (60_exceptions.md R321), so none stands beside it. -/

namespace Sys2Proof.Machine

/-- What a meaning answers. -/
abbrev Result := Host.Outcome State Fault Refusal

/-- `V[r]` (00_scope.md R8, 10_state.md R20): no register is hard-wired. -/
def State.reg (s : State) (r : RegIx) : Byte := s.v[r.toNat]'(r.isLt)

/-- `V[r] <- b` (00_scope.md R8). -/
def State.setReg (s : State) (r : RegIx) (b : Byte) : State := { s with v := s.v.set r.toNat b r.isLt }

/-- `PC <- target mod MEM_SIZE` (10_state.md R23). -/
def State.setPc (s : State) (target : Nat) : State := { s with pc := BitVec.ofNat 16 (target % Config.memSize) }

/-- `I <- w` (10_state.md R28). -/
def State.setI (s : State) (w : Word) : State := { s with i := w }

/-- `S <- l`. -/
def State.setStack (s : State) (l : List Word) : State := { s with stack := l }

/-- `DT <- b` (10_state.md R31). -/
def State.setDt (s : State) (b : Byte) : State := { s with dt := b }

/-- `ST <- b` (10_state.md R32). -/
def State.setSt (s : State) (b : Byte) : State := { s with st := b }

/-- `mode <- m` (10_state.md R33). -/
def State.setMode (s : State) (m : Mode) : State := { s with mode := m }

/-- `kw_prev <- k` (10_state.md R34). -/
def State.setKwPrev (s : State) (k : Word) : State := { s with kwPrev := k }

/-- The framebuffer becomes `f` (10_state.md R36). -/
def State.setFb (s : State) (f : Framebuffer) : State := { s with fb := f }

/-- The memory becomes `m` (10_state.md R37). -/
def State.setMem (s : State) (m : Memory) : State := { s with mem := m }

/-- The advance of the fetch (40_step.md R124): PC becomes (a + 2) mod MEM_SIZE. -/
def State.advance (s : State) : State := s.setPc (s.pc.toNat + 2)

/-- The skip (41_control_flow.md R150): PC moves on by 2 once more, modulo MEM_SIZE. -/
def State.skip (s : State) : State := s.setPc (s.pc.toNat + 2)

/-- Skip the next instruction when `c` holds (41_control_flow.md R150). -/
def State.skipIf (s : State) (c : Bool) : State := if c then s.skip else s

/-- `push(v)`: appends `v` as the new top (10_state.md R30, 00_scope.md R10). -/
def State.push (s : State) (v : Word) : State := s.setStack (s.stack ++ [v])

/-- The top of the call stack, none when it is empty (10_state.md R30). -/
def State.top (s : State) : Option Word := s.stack.getLast?

/-- `pop()` less its result: removes the top (10_state.md R30). -/
def State.dropTop (s : State) : State := s.setStack s.stack.dropLast

/-- The number of an error kind (60_exceptions.md R311). -/
def ErrorKind.code : ErrorKind → Nat
  | .decodeError => 1
  | .stackUnderflow => 2
  | .loadOverflow => 3
  | .capabilityError => 4
  | .stackOverflow => 5
  | .fontWrite => 6
  | .keyIndexRange => 7

/-- Error entry (60_exceptions.md R316), on the state from BEFORE the transition, so that every effect of the
transition is discarded: `err` takes the record and the mode becomes Halted (UNVERIFIED, D19, log 19). -/
def State.raise (s : State) (k : ErrorKind) (pc word : Option Word) (info : ErrorInfo) : State :=
  { s with err := some { kind := k, code := k.code, pc := pc, word := word, info := info }, mode := .halted k }

/-- An error of the instruction `w` at the address in PC, before the fetch advance: pc = a and word = w
(60_exceptions.md R311). -/
def State.raiseAt (s : State) (k : ErrorKind) (w : Word) (info : ErrorInfo) : State :=
  s.raise k (some s.pc) (some w) info

/-- `KeySample()` (00_scope.md R10, 45_timers_input.md R283): the next listed answer of the `keys` port, or a free
value; and the state after the query. -/
def State.sampleKeys (s : State) : Answer Word × State :=
  match s.keysIn with
  | [] => (Config.freeKeys s.draws, { s with draws := s.draws + 1 })
  | a :: rest => (a, { s with keysIn := rest })

/-- `RandByte()` (00_scope.md R10, 42_alu.md R192): the next listed answer of the `rand` port, or a free value; and the
state after the query. -/
def State.drawRandom (s : State) : Answer Byte × State :=
  match s.randIn with
  | [] => (Config.freeRandom s.draws, { s with draws := s.draws + 1 })
  | a :: rest => (a, { s with randIn := rest })

/-- The renderer's answer to a present (00_scope.md R10, 44_display.md R257): the next listed one, or a free value; and
the state after it. -/
def State.askRenderer (s : State) : Answer Unit × State :=
  match s.presentIn with
  | [] => (Config.freePresent s.draws, { s with draws := s.draws + 1 })
  | a :: rest => (a, { s with presentIn := rest })

/-- The present event of a Dxyn that completes (44_display.md R257): the renderer gets FB as it stands. -/
def State.emitPresent (s : State) : State := { s with presented := s.presented ++ [s.fb] }

/-- The transition the environment issues next; none listed: a Step (40_step.md R134; DESIGN CHOICE, log 1). -/
def State.nextEvent (s : State) : Transition := s.events.headD .step

/-- The state once that transition is taken off the list. -/
def State.afterEvent (s : State) : State := { s with events := s.events.tail }

/-- The word at PC (20_memory.md R60): big-endian, from the bytes at PC and (PC + 1) mod MEM_SIZE. -/
def State.fetchWord (s : State) : Word := wordOfBytes (s.mem.read s.pc.toNat) (s.mem.read (s.pc.toNat + 1))

end Sys2Proof.Machine
end

