-- ==== Sys2Proof/WellFormed.lean ====
section
/-! DEFINITION. The checks the spec puts on what is given to the core: the ranges of operand fields
(spec/30_encoding.md R93, R101), the constraints on the parameters (00_scope.md R5) and the length of a program image
(20_memory.md R68). -/

namespace Sys2Proof

/-- `v` fits a field of `width` bits (30_encoding.md R91, R93: every field is unsigned, taken straight from the word). -/
def fieldFits (width v : Nat) : Bool := decide (v < 2 ^ width)

/-- A register number written as a number names one of V0..VF (R94). -/
def registerFits (r : Nat) : Bool := fieldFits 4 r

/-- An immediate nn is 0..0xFF (R93, R101). -/
def immediateFits (nn : Nat) : Bool := fieldFits 8 nn

/-- An address nnn is 0..0xFFF (R93, R101). -/
def addressFits (nnn : Nat) : Bool := fieldFits 12 nnn

/-- A row count n is 0..0xF (R93, R101). -/
def rowsFit (n : Nat) : Bool := fieldFits 4 n

/-- Every operand of the instruction fits its field. The operand types already say so; `Laws/PerInstr.lean` proves it
of every instruction, so no statement about instructions carries it as a hypothesis. -/
def Instr.wellFormed : Instr → Bool
  | .cls | .ret => true
  | .jp nnn | .call nnn | .ldI nnn | .jpV0 nnn => addressFits nnn.toNat
  | .seVB x nn | .sneVB x nn | .ldVB x nn | .addVB x nn | .rnd x nn => registerFits x.toNat && immediateFits nn.toNat
  | .seVV x y | .sneVV x y | .ldVV x y | .orVV x y | .andVV x y | .xorVV x y | .addVV x y | .sub x y | .shr x y
  | .subn x y | .shl x y => registerFits x.toNat && registerFits y.toNat
  | .drw x y n => registerFits x.toNat && registerFits y.toNat && rowsFit n.toNat
  | .skp x | .sknp x | .ldVDT x | .ldVK x | .ldDTV x | .ldSTV x | .addIV x | .ldFV x | .ldBV x | .ldMV x
  | .ldVM x => registerFits x.toNat

/-- MEM_SIZE is a power of two with 0x200 < MEM_SIZE ≤ 0x10000 (00_scope.md R5). -/
def Config.Params.memSizeOk (p : Params) : Bool :=
  (List.range 17).any (fun k => 2 ^ k == p.memSize) && decide (0x200 < p.memSize) && decide (p.memSize ≤ 0x10000)

/-- FONT_BASE + FONT_SIZE ≤ PROGRAM_OFFSET < MEM_SIZE (R5): the font and program regions are disjoint. -/
def Config.Params.regionsOk (p : Params) : Bool :=
  decide (p.fontBase + p.fontSize ≤ p.programOffset) && decide (p.programOffset < p.memSize)

/-- DISP_W ≥ 1 and DISP_H ≥ 1 (R5). -/
def Config.Params.displayOk (p : Params) : Bool := decide (1 ≤ p.dispW) && decide (1 ≤ p.dispH)

/-- STACK_DEPTH ≥ 1 (R5). -/
def Config.Params.stackOk (p : Params) : Bool := decide (1 ≤ p.stackDepth)

/-- All the constraints of R5. -/
def Config.Params.wellFormed (p : Params) : Bool := p.memSizeOk && p.regionsOk && p.displayOk && p.stackOk

/-- A program image fits from PROGRAM_OFFSET to the end of memory (20_memory.md R68): at most 3584 bytes. -/
def imageFits (rom : List Byte) : Bool := decide (rom.length ≤ Config.memSize - Config.programOffset)

end Sys2Proof
end

