-- ==== Sys2Proof/Machine/Construct.lean ====
section
/-! DEFINITION. Construction from a program image, the core's only reset (spec/70_reset_and_hazards.md R350, R352). -/

namespace Sys2Proof.Machine

/-- The record of LoadOverflow (60_exceptions.md R311, R315): no pc, no word, info = L. -/
def loadOverflowRecord (L : Nat) : ErrorRecord :=
  { kind := .loadOverflow, code := ErrorKind.loadOverflow.code, pc := none, word := none, info := .length L }

/-- A state with the image copied verbatim from PROGRAM_OFFSET on (20_memory.md R68). -/
def State.withImage (s : State) (rom : List Byte) : State :=
  s.setMem (s.mem.writeBytes Config.programOffset rom)

/-- construct(rom) (70_reset_and_hazards.md R350): LoadOverflow and no core when the image is longer than MEM_SIZE -
PROGRAM_OFFSET; otherwise the reset state with the image in memory. -/
def construct (rom : List Byte) : Except ErrorRecord State :=
  if imageFits rom then .ok (State.reset.withImage rom) else .error (loadOverflowRecord rom.length)

end Sys2Proof.Machine
end

