-- ==== Sys2Proof/Machine/Operands.lean ====
section
/-! DEFINITION. The operand forms: immediates (spec/30_encoding.md R93), the addresses I + k (43_index_memory.md R226),
the blocks of memory and registers that Fx33, Fx55, Fx65 and Dxyn move (20_memory.md R70), and key indexes. -/

namespace Sys2Proof.Machine

/-- zext_16 of nnn (30_encoding.md R93). -/
def addrWord (nnn : Addr12) : Word := nnn.setWidth 16

/-- The address I + k before its reduction (43_index_memory.md R226): the only data addressing mode. -/
def State.effAddr (s : State) (k : Nat) : Nat := s.i.toNat + k

/-- The bytes at I .. I+n-1 (20_memory.md R70). -/
def State.loadBlock (s : State) (n : Nat) : List Byte := (List.range n).map fun k => s.mem.read (s.effAddr k)

/-- The values of V0..Vx, x included (43_index_memory.md R224). -/
def State.regBlock (s : State) (x : RegIx) : List Byte := s.v.toList.take (x.toNat + 1)

/-- `V[k] <- bytes[k]` for every byte (43_index_memory.md R225): V0 first, Vx last. -/
def State.setRegBlock (s : State) (bytes : List Byte) : State :=
  { s with v := Vector.ofFn fun k : Fin 16 => bytes.getD k.val s.v[k] }

/-- The hundreds, tens and ones digits of a byte (43_index_memory.md R223). -/
def bcdDigits (b : Byte) : List Byte :=
  [BitVec.ofNat 8 (b.toNat / 100), BitVec.ofNat 8 (b.toNat / 10 % 10), BitVec.ofNat 8 (b.toNat % 10)]

/-- A key index can be asked of the input source: 0x0..0xF (45_timers_input.md R283). -/
def keyInRange (k : Byte) : Bool := decide (k.toNat ≤ 0xF)

/-- Key `k` is down in the sample `K` (00_scope.md R10). -/
def keyDown (K : Word) (k : Byte) : Bool := K.getLsbD k.toNat

/-- The address of glyph `b`, FONT_BASE + 5·b, not masked (43_index_memory.md R222). -/
def glyphAddr (b : Byte) : Word := BitVec.ofNat 16 (Config.fontBase + Config.glyphBytes * b.toNat)

end Sys2Proof.Machine
end

