-- ==== Sys2Proof/Machine/Flags.lean ====
section
/-! DEFINITION. The flag computations: VF is the only flag, always 0 or 1 when an instruction writes it as a flag
(spec/10_state.md R29), and it is written after the result (40_step.md R128, 42_alu.md R180; UNVERIFIED, D11,
log 15). -/

namespace Sys2Proof.Machine

/-- The number of VF (10_state.md R21). -/
def vfIx : RegIx := 0xF

/-- A condition as the value of VF (10_state.md R29). -/
def flagByte (c : Bool) : Byte := if c then 1 else 0

/-- Carry of 8xy4: the exact sum exceeds 255 (42_alu.md R187). -/
def carryOut (a b : Byte) : Bool := decide (255 < a.toNat + b.toNat)

/-- No borrow of `a - b`: the minuend is at least the subtrahend (42_alu.md R188, R190, R193). -/
def noBorrow (a b : Byte) : Bool := decide (b.toNat ≤ a.toNat)

/-- The bit 8xy6 shifts out, bit 0 (42_alu.md R189). -/
def lowBit (a : Byte) : Bool := a.getLsbD 0

/-- The bit 8xyE shifts out, bit 7 (42_alu.md R191). -/
def highBit (a : Byte) : Bool := a.getLsbD 7

/-- Write the result to Vx, then the flag to VF: for x = 0xF the flag wins (40_step.md R128). -/
def State.setRegFlag (s : State) (x : RegIx) (r : Byte) (c : Bool) : State :=
  (s.setReg x r).setReg vfIx (flagByte c)

end Sys2Proof.Machine
end

