-- ==== Sys2Proof/Machine/Alu.lean ====
section
/-! DEFINITION. Register loads and the ALU (spec/42_alu.md). Operands are read from the state before any write
(40_step.md R128). -/

namespace Sys2Proof.Machine

/-- An instruction that only writes Vx (R180, 40_step.md R129). -/
def writeReg (x : RegIx) (r : Byte) (s : State) : Result := .next (s.advance.setReg x r)

/-- An instruction that writes Vx and then VF as a flag (R180). -/
def writeRegFlag (x : RegIx) (r : Byte) (c : Bool) (s : State) : Result := .next (s.advance.setRegFlag x r c)

/-- LD Vx, nn (R181). -/
def execLdVB (x : RegIx) (nn : Byte) (s : State) : Result := writeReg x nn s

/-- ADD Vx, nn (R182): no carry out. -/
def execAddVB (x : RegIx) (nn : Byte) (s : State) : Result := writeReg x (s.reg x + nn) s

/-- LD Vx, Vy (R183). -/
def execLdVV (x y : RegIx) (s : State) : Result := writeReg x (s.reg y) s

/-- OR Vx, Vy (R184). -/
def execOrVV (x y : RegIx) (s : State) : Result := writeReg x (s.reg x ||| s.reg y) s

/-- AND Vx, Vy (R185). -/
def execAndVV (x y : RegIx) (s : State) : Result := writeReg x (s.reg x &&& s.reg y) s

/-- XOR Vx, Vy (R186). -/
def execXorVV (x y : RegIx) (s : State) : Result := writeReg x (s.reg x ^^^ s.reg y) s

/-- ADD Vx, Vy (R187): VF is the carry. -/
def execAddVV (x y : RegIx) (s : State) : Result :=
  writeRegFlag x (s.reg x + s.reg y) (carryOut (s.reg x) (s.reg y)) s

/-- SUB Vx, Vy (R188): VF is no borrow of Vx - Vy. -/
def execSub (x y : RegIx) (s : State) : Result :=
  writeRegFlag x (s.reg x - s.reg y) (noBorrow (s.reg x) (s.reg y)) s

/-- SHR Vx (R189): VF is the bit shifted out; the y field is ignored (30_encoding.md R100). -/
def execShr (x _y : RegIx) (s : State) : Result := writeRegFlag x (s.reg x >>> 1) (lowBit (s.reg x)) s

/-- SUBN Vx, Vy (R190): VF is no borrow of Vy - Vx. -/
def execSubn (x y : RegIx) (s : State) : Result :=
  writeRegFlag x (s.reg y - s.reg x) (noBorrow (s.reg y) (s.reg x)) s

/-- SHL Vx (R191): VF is the bit shifted out; the y field is ignored (30_encoding.md R100). -/
def execShl (x _y : RegIx) (s : State) : Result := writeRegFlag x (s.reg x <<< 1) (highBit (s.reg x)) s

/-- RND Vx, nn (R192): one draw, whatever nn is; CapabilityError when the provider fails (60_exceptions.md R314). -/
def execRnd (x : RegIx) (nn : Byte) (s : State) : Result :=
  .next
    (match s.drawRandom.1 with
      | .failure => s.drawRandom.2.raiseAt .capabilityError (encode (.rnd x nn)) (.collaborator .random)
      | .value r => s.drawRandom.2.advance.setReg x (r &&& nn))

end Sys2Proof.Machine
end

