-- ==== Sys2Proof/Machine/Control.lean ====
section
/-! DEFINITION. Control transfer (spec/41_control_flow.md). A meaning takes the state BEFORE the fetch advance, with PC
= a, and makes the advance itself (40_step.md R123, R124; DESIGN CHOICE, log 7). -/

namespace Sys2Proof.Machine

/-- RET (R151): pop the call stack into PC, or StackUnderflow. -/
def execRet (s : State) : Result :=
  match s.top with
  | none => .next (s.raiseAt .stackUnderflow (encode .ret) .none)
  | some t => .next (s.advance.dropTop.setPc t.toNat)

/-- JP nnn (R152). -/
def execJp (nnn : Addr12) (s : State) : Result := .next (s.advance.setPc (addrWord nnn).toNat)

/-- CALL nnn (R153): push the address after the CALL, or StackOverflow on a full stack (UNVERIFIED, D7, log 12). -/
def execCall (nnn : Addr12) (s : State) : Result :=
  if Config.stackDepth ≤ s.stack.length then .next (s.raiseAt .stackOverflow (encode (.call nnn)) .none)
  else .next ((s.advance.push s.advance.pc).setPc (addrWord nnn).toNat)

/-- SE Vx, nn (R154). -/
def execSeVB (x : RegIx) (nn : Byte) (s : State) : Result := .next (s.advance.skipIf (s.reg x == nn))

/-- SNE Vx, nn (R155). -/
def execSneVB (x : RegIx) (nn : Byte) (s : State) : Result := .next (s.advance.skipIf (s.reg x != nn))

/-- SE Vx, Vy (R156). -/
def execSeVV (x y : RegIx) (s : State) : Result := .next (s.advance.skipIf (s.reg x == s.reg y))

/-- SNE Vx, Vy (R157). -/
def execSneVV (x y : RegIx) (s : State) : Result := .next (s.advance.skipIf (s.reg x != s.reg y))

/-- JP V0, nnn (R158): the sum is exact, then reduced; the register is always V0. -/
def execJpV0 (nnn : Addr12) (s : State) : Result :=
  .next (s.advance.setPc ((addrWord nnn).toNat + (s.reg 0).toNat))

end Sys2Proof.Machine
end

