-- ==== Sys2Proof/Machine/Display.lean ====
section
/-! DEFINITION. The framebuffer and the sprite-blit engine (spec/44_display.md). -/

namespace Sys2Proof.Machine

/-- `FB[py mod DISP_H][px mod DISP_W]`: the pixel at column px and row py, both wrapped (R250, R254). -/
def Framebuffer.pixel (fb : Framebuffer) (px py : Nat) : Bool :=
  (fb[py % Config.dispH]'(Nat.mod_lt _ (by decide)))[px % Config.dispW]'(Nat.mod_lt _ (by decide))

/-- `FB[py][px] <- FB[py][px] ^ 1`, both coordinates wrapped (R252, R254). -/
def Framebuffer.flip (fb : Framebuffer) (px py : Nat) : Framebuffer :=
  fb.set (py % Config.dispH)
    ((fb[py % Config.dispH]'(Nat.mod_lt _ (by decide))).set (px % Config.dispW) (!fb.pixel px py)
      (Nat.mod_lt _ (by decide)))
    (Nat.mod_lt _ (by decide))

/-- The empty framebuffer: all pixels 0 (R251). -/
def Framebuffer.blank : Framebuffer := Vector.replicate Config.dispH (Vector.replicate Config.dispW false)

/-- Column `c` of a sprite row: bit 7 is column 0, bit 0 is column 7 (R255; PRESUMED by the spec, D15, log 17). -/
def spriteBit (row : Byte) (c : Nat) : Bool := row.getLsbD (7 - c)

/-- One pixel of the loop of R252: a set sprite bit flips the pixel, and a pixel that was 1 is a collision (R256). -/
def drawPixel (px py : Nat) (bit : Bool) (acc : Framebuffer × Bool) : Framebuffer × Bool :=
  if bit then (acc.1.flip px py, acc.2 || acc.1.pixel px py) else acc

/-- The inner loop of R252: the eight columns of sprite row `row` from column vx on, in screen row py. -/
def drawRow (vx py : Nat) (row : Byte) (acc : Framebuffer × Bool) : Framebuffer × Bool :=
  (List.range Config.spriteW).foldl (fun acc c => drawPixel (vx + c) py (spriteBit row c) acc) acc

/-- The outer loop of R252: the rows of the sprite in turn, from screen row vy on. -/
def drawRows (vx : Nat) : Nat → List Byte → Framebuffer × Bool → Framebuffer × Bool
  | _, [], acc => acc
  | vy, row :: rows, acc => drawRows vx (vy + 1) rows (drawRow vx vy row acc)

/-- The blit of R252: the new framebuffer, and whether any pixel went from 1 to 0. -/
def blit (vx vy : Nat) (rows : List Byte) (fb : Framebuffer) : Framebuffer × Bool :=
  drawRows vx vy rows (fb, false)

/-- CLS (R251): all pixels 0, no present. -/
def execCls (s : State) : Result := .next (s.advance.setFb Framebuffer.blank)

/-- DRW Vx, Vy, n (R252): blit the n bytes at I on at (Vx, Vy), write the collision to VF, then present. A renderer
that fails the present discards all of it (R257, 60_exceptions.md R314, R316; UNVERIFIED, D27, log 19). -/
def execDrw (x y : RegIx) (n : Nibble) (s : State) : Result :=
  .next
    (match s.askRenderer.1 with
      | .failure => s.askRenderer.2.raiseAt .capabilityError (encode (.drw x y n)) (.collaborator .renderer)
      | .value _ =>
        let drawn := blit (s.reg x).toNat (s.reg y).toNat (s.loadBlock n.toNat) s.fb
        ((s.askRenderer.2.advance.setFb drawn.1).setReg vfIx (flagByte drawn.2)).emitPresent)

end Sys2Proof.Machine
end

