-- ==== Sys2Proof/Machine/Index.lean ====
section
/-! DEFINITION. The index register and memory transfers (spec/43_index_memory.md). -/

namespace Sys2Proof.Machine

/-- A store of `bytes` at I on (R223, R224), under the font rule (R227, 20_memory.md R66; UNVERIFIED, D14, log 13): the
memory changes and nothing else, or FontWrite. -/
def storeAtI (ins : Instr) (bytes : List Byte) (s : State) : Result :=
  match Memory.storeBlock Config.fontWrite (s.effAddr 0) bytes s.mem with
  | .error t => .next (s.raiseAt .fontWrite (encode ins) (.address (BitVec.ofNat 16 t)))
  | .ok m => .next (s.advance.setMem m)

/-- LD I, nnn (R220). -/
def execLdI (nnn : Addr12) (s : State) : Result := .next (s.advance.setI (addrWord nnn))

/-- ADD I, Vx (R221): modulo 2^16, VF unchanged (UNVERIFIED, D12, D13, log 16). -/
def execAddIV (x : RegIx) (s : State) : Result := .next (s.advance.setI (s.i + (s.reg x).setWidth 16))

/-- LD F, Vx (R222): the address of glyph Vx, not masked. -/
def execLdFV (x : RegIx) (s : State) : Result := .next (s.advance.setI (glyphAddr (s.reg x)))

/-- LD B, Vx (R223): the three decimal digits of Vx at I, I + 1, I + 2. -/
def execLdBV (x : RegIx) (s : State) : Result := storeAtI (.ldBV x) (bcdDigits (s.reg x)) s

/-- LD [I], Vx (R224): V0..Vx at I .. I + x. -/
def execLdMV (x : RegIx) (s : State) : Result := storeAtI (.ldMV x) (s.regBlock x) s

/-- LD Vx, [I] (R225): V0..Vx from I .. I + x, all reads first. -/
def execLdVM (x : RegIx) (s : State) : Result := .next (s.advance.setRegBlock (s.loadBlock (x.toNat + 1)))

end Sys2Proof.Machine
end

