-- ==== Sys2Proof/Machine/TimerInput.lean ====
section
/-! DEFINITION. Timer access, key queries and the key wait (spec/45_timers_input.md). -/

namespace Sys2Proof.Machine

/-- LD Vx, DT (R280). -/
def execLdVDT (x : RegIx) (s : State) : Result := .next (s.advance.setReg x s.dt)

/-- LD DT, Vx (R281). -/
def execLdDTV (x : RegIx) (s : State) : Result := .next (s.advance.setDt (s.reg x))

/-- LD ST, Vx (R282). -/
def execLdSTV (x : RegIx) (s : State) : Result := .next (s.advance.setSt (s.reg x))

/-- The key skips (R284, R285): KeyIndexRange before any query when Vx > 0xF (R283, 60_exceptions.md R320; UNVERIFIED,
D17, D21, log 18), then one query, then a skip when the key is down (`whenDown`) or up. -/
def keySkip (ins : Instr) (k : Byte) (whenDown : Bool) (s : State) : Result :=
  .next
    (if keyInRange k then
      match s.sampleKeys.1 with
      | .failure => s.sampleKeys.2.raiseAt .capabilityError (encode ins) (.collaborator .input)
      | .value K => s.sampleKeys.2.advance.skipIf (keyDown K k == whenDown)
    else s.raiseAt .keyIndexRange (encode ins) (.key k))

/-- SKP Vx (R284). -/
def execSkp (x : RegIx) (s : State) : Result := keySkip (.skp x) (s.reg x) true s

/-- SKNP Vx (R285). -/
def execSknp (x : RegIx) (s : State) : Result := keySkip (.sknp x) (s.reg x) false s

/-- LD Vx, K (R286): one sample into kw_prev, and the wait begins. Vx is not written here. -/
def execLdVK (x : RegIx) (s : State) : Result :=
  .next
    (match s.sampleKeys.1 with
      | .failure => s.sampleKeys.2.raiseAt .capabilityError (encode (.ldVK x)) (.collaborator .input)
      | .value K => (s.sampleKeys.2.advance.setKwPrev K).setMode (.awaitingKey x))

/-- The keys that end the wait (R287): under `edge`, those down now and up at the previous sample; under `level`, those
down now (UNVERIFIED, D18, log 14). -/
def newKeys (t : Config.KeywaitTrigger) (K prev : Word) : Word :=
  match t with
  | .edge => K &&& ~~~prev
  | .level => K

/-- The least index of a set bit, none when no bit is set (R287, R288). -/
def leastKey (K : Word) : Option Nat := (List.range Config.nKeys).find? fun k => K.getLsbD k

/-- The address of the Fx0A that began the wait: PC stands 2 past it (40_step.md R130, 60_exceptions.md R311; DEDUCED,
log 8). -/
def waitAddr (s : State) : Word := BitVec.ofNat 16 ((s.pc.toNat + Config.memSize - 2) % Config.memSize)

/-- The key-wait poll (R287), a Step in mode AwaitingKey(x): it fetches nothing and does not move PC. -/
def pollKeys (x : RegIx) (s : State) : State :=
  match s.sampleKeys.1 with
  | .failure => s.sampleKeys.2.raise .capabilityError (some (waitAddr s)) none (.collaborator .input)
  | .value K =>
    match leastKey (newKeys Config.keywaitTrigger K s.kwPrev) with
    | some k => (s.sampleKeys.2.setReg x (BitVec.ofNat 8 k)).setMode .running
    | none => s.sampleKeys.2.setKwPrev K

end Sys2Proof.Machine
end

