-- ==== Sys2Proof/Machine/Cycle.lean ====
section
/-! DEFINITION. The transitions (spec/40_step.md R122): Step, Tick and Cancel, and the cycle of a Step in mode Running
(R123). -/

namespace Sys2Proof.Machine

/-- A Step in mode Running (40_step.md R123): fetch, decode, and either DecodeError (R125) or the instruction. -/
def executeStep (s : State) : Result :=
  match decode s.fetchWord with
  | .error _ => .next (s.raiseAt .decodeError s.fetchWord .none)
  | .ok i => exec i s

/-- A timer's decrement at a tick, floor at zero (60_exceptions.md R323). -/
def tickDown (b : Byte) : Byte := if 0 < b.toNat then b - 1 else 0

/-- The Tick transition (60_exceptions.md R323): both timers, and nothing else. -/
def State.ticked (s : State) : State := (s.setDt (tickDown s.dt)).setSt (tickDown s.st)

/-- The Cancel transition (40_step.md R133): the mode, and nothing else. -/
def State.cancelled (s : State) : State := s.setMode .stopped

/-- One transition (40_step.md R122). In Halted and Stopped none is enabled (R131): the stuck states, as faults. -/
def transition (t : Transition) (s : State) : Result :=
  match s.mode, t with
  | .halted k, _ => .fault (.halted k)
  | .stopped, _ => .fault .stopped
  | .running, .step => executeStep s
  | .awaitingKey x, .step => .next (pollKeys x s)
  | .running, .tick | .awaitingKey _, .tick => .next s.ticked
  | .running, .cancel | .awaitingKey _, .cancel => .next s.cancelled

/-- The state with the instruction word `w` where the next fetch reads it (20_memory.md R60). -/
def State.pokeWord (s : State) (w : Word) : State :=
  s.setMem ((s.mem.write s.pc.toNat (wordHi w)).write (s.pc.toNat + 1) (wordLo w))

/-- The state made ready to execute a word: mode Running, no error, and a Step as the next transition. -/
def State.readyToRun (s : State) : State :=
  { s with
    mode := .running
    err := none
    events := match s.events with
      | [] => []
      | .step :: es => .step :: es
      | e :: es => .step :: e :: es }

end Sys2Proof.Machine
end

