-- ==== Sys2Proof/Machine/Step.lean ====
section
/-! DEFINITION. One step of the machine: the next transition the environment issues (spec/40_step.md R122, R134). -/

namespace Sys2Proof.Machine

/-- The transition at the head of `events`, a Step when none is listed (DESIGN CHOICE, log 1). -/
def step (s : State) : Host.Outcome State Fault Refusal := transition s.nextEvent s.afterEvent

/-- `s` with the instruction of an opcode-table word stored where the next step fetches it (log 9). -/
def State.withFetchWord (s : State) (nbits w : Nat) : State := (s.readyToRun).pokeWord (tableWord nbits w)

end Sys2Proof.Machine
end

