-- ==== Sys2Proof/Safety.lean ====
section
/-! DEFINITION. The vocabulary of claims: the parts of the state and what it is to leave them unchanged (spec/40_step.md
R129), the invariant of the machine, and a safe state. -/

namespace Sys2Proof.Machine

/-- The parts of the state (10_state.md, 40_step.md R121): one for each field of State. -/
inductive Part where
  | v | pc | i | stack | dt | st | mode | kwPrev | err | fb | mem
  | presented | events | keysIn | randIn | presentIn | draws
  deriving DecidableEq, Repr

/-- The part is the same in `t` as in `s`. Of memory: every byte reads the same. -/
def Part.same (p : Part) (s t : State) : Prop :=
  match p with
  | .v => ∀ r, t.reg r = s.reg r
  | .pc => t.pc = s.pc
  | .i => t.i = s.i
  | .stack => t.stack = s.stack
  | .dt => t.dt = s.dt
  | .st => t.st = s.st
  | .mode => t.mode = s.mode
  | .kwPrev => t.kwPrev = s.kwPrev
  | .err => t.err = s.err
  | .fb => t.fb = s.fb
  | .mem => ∀ a, t.mem.read a = s.mem.read a
  | .presented => t.presented = s.presented
  | .events => t.events = s.events
  | .keysIn => t.keysIn = s.keysIn
  | .randIn => t.randIn = s.randIn
  | .presentIn => t.presentIn = s.presentIn
  | .draws => t.draws = s.draws

/-- Everything but the parts listed is unchanged (the frame rule, 40_step.md R129). -/
def SameExcept (ps : List Part) (s t : State) : Prop := ∀ p, p ∉ ps → p.same s t

/-- `err` agrees with the mode (10_state.md R35, 60_exceptions.md R316): a record of the halting error in Halted, empty
in every other mode. LoadOverflow never halts a core (60_exceptions.md R315). -/
def State.errAgrees (s : State) : Prop :=
  match s.mode with
  | .halted k => k ≠ .loadOverflow ∧ ∃ r, s.err = some r ∧ r.kind = k ∧ r.code = k.code
  | _ => s.err = none

/-- What every state of a run satisfies. -/
structure State.Inv (s : State) : Prop where
  /-- PC is below MEM_SIZE (10_state.md R23) -/
  pc_lt : s.pc.toNat < Config.memSize
  /-- the call stack holds at most STACK_DEPTH entries (R30) -/
  stack_length : s.stack.length ≤ Config.stackDepth
  /-- every return address is below MEM_SIZE (41_control_flow.md R151) -/
  stack_lt : ∀ r ∈ s.stack, r.toNat < Config.memSize
  /-- memory is in its canonical form -/
  mem_wf : s.mem.wf = true
  /-- the font region holds FONT_DATA (20_memory.md R66, "written once at construction and never mutated") -/
  font : ∀ a, inFont a = true → s.mem.read a = Memory.unlisted a
  /-- the error record agrees with the mode (R35) -/
  err_agrees : s.errAgrees

/-- A safe state: no error has halted the core. -/
def State.Safe (s : State) : Prop := ∀ k, s.mode ≠ .halted k

end Sys2Proof.Machine
end

