-- ==== Sys2Proof/Certificates/Slice0/Obligations.lean ====
section
/-! DEFINITION. The statements about the model, from the rules of spec/. "Stated" ones formalise a rule whose text carries
no decision or derivation mark; "derived" ones rest on a rule the spec marks as its own decision (D<n> of
92_eei_decisions.md) or derivation, or on a choice of the model (the assumption log). `exec i s` is the whole Step of
`i` in a state whose PC is the address of `i` (log 7). -/

namespace Sys2Proof.Claims

open Sys2Proof.Machine

/-- The address `k` past the instruction, modulo MEM_SIZE. -/
def pcPlus (s : State) (k : Nat) : Nat := (s.pc.toNat + k) % Config.memSize

/-- `t` is `s` with `b` in Vx and PC past the instruction; every other register and, but for the parts `also`, every other
part of the state is as before. -/
def RegWritten (also : List Part) (s t : State) (x : RegIx) (b : Byte) : Prop :=
  t.reg x = b ∧ (∀ r, r ≠ x → t.reg r = s.reg r) ∧ t.pc.toNat = pcPlus s 2 ∧ SameExcept (.v :: .pc :: also) s t

/-- `t` is `s` with the number `r` in Vx and the flag `c` in VF, VF written last (so for x = 0xF it holds the flag), and
PC past the instruction; nothing else differs. -/
def FlagWritten (s t : State) (x : RegIx) (r c : Nat) : Prop :=
  (x ≠ 0xF → (t.reg x).toNat = r) ∧ (t.reg 0xF).toNat = c ∧ (∀ q, q ≠ x → q ≠ 0xF → t.reg q = s.reg q) ∧
    t.pc.toNat = pcPlus s 2 ∧ SameExcept [.v, .pc] s t

/-- `t` is `s` with PC two or, when the skip is taken, four past the instruction; nothing else differs but `also`. -/
def SkippedIf (also : List Part) (s t : State) (c : Prop) : Prop :=
  (c → t.pc.toNat = pcPlus s 4) ∧ (¬ c → t.pc.toNat = pcPlus s 2) ∧ SameExcept (.pc :: also) s t

/-- `t` is `s` halted with the error: the record with its code, pc, word and info, the mode, and, but for the parts `also`
of the environment, nothing else (60_exceptions.md R316). -/
def HaltedWith (also : List Part) (s t : State) (k : ErrorKind) (code : Nat) (pc word : Option Word)
    (info : ErrorInfo) : Prop :=
  t.mode = .halted k ∧ t.err = some { kind := k, code := code, pc := pc, word := word, info := info } ∧
    SameExcept (.mode :: .err :: also) s t

/-- The illegal words, class by class, as 30_encoding.md R97 lists them. -/
def IllegalWord (w : Word) : Prop :=
  let op := w.toNat / 0x1000
  let low := w.toNat % 0x10
  let byte := w.toNat % 0x100
  (op = 0x0 ∧ w.toNat ≠ 0x00E0 ∧ w.toNat ≠ 0x00EE) ∨
  (op = 0x5 ∧ low ≠ 0) ∨
  (op = 0x8 ∧ low ∈ [0x8, 0x9, 0xA, 0xB, 0xC, 0xD, 0xF]) ∨
  (op = 0x9 ∧ low ≠ 0) ∨
  (op = 0xE ∧ byte ∉ [0x9E, 0xA1]) ∨
  (op = 0xF ∧ byte ∉ [0x07, 0x0A, 0x15, 0x18, 0x1E, 0x29, 0x33, 0x55, 0x65])

/-- An address of the font region (20_memory.md R66). -/
def FontAddr (a : Nat) : Prop := Config.fontBase ≤ a ∧ a < Config.fontBase + Config.fontSize

/-- No target of an n-byte store at I lies in the font region (43_index_memory.md R227). -/
def ClearOfFont (s : State) (n : Nat) : Prop := ∀ k, k < n → ¬ FontAddr (s.effAddr k % Config.memSize)

/-- `a` is the first target, in access order, of an n-byte store at I that lies in the font region (R227). -/
def FirstFontTarget (s : State) (n a : Nat) : Prop :=
  ∃ k, k < n ∧ a = s.effAddr k % Config.memSize ∧ FontAddr a ∧ ∀ j, j < k → ¬ FontAddr (s.effAddr j % Config.memSize)

/-- `t` is `s` after a store of n bytes at I: byte k at I + k, every byte outside those as before, PC past the
instruction, and nothing else changed. -/
def BytesStored (s t : State) (n : Nat) (byte : Nat → Nat) : Prop :=
  (∀ k, k < n → (t.mem.read (s.effAddr k)).toNat = byte k) ∧
  (∀ a, (∀ k, k < n → a % Config.memSize ≠ s.effAddr k % Config.memSize) → t.mem.read a = s.mem.read a) ∧
  t.pc.toNat = pcPlus s 2 ∧ SameExcept [.pc, .mem] s t

/-- The bit of the sprite at I that a draw at (Vx, Vy) with n rows aims at the pixel (px, py): column and row are counted
from the wrapped start, bit 7 is column 0 (44_display.md R252, R254, R255). -/
def spriteAt (s : State) (x y : RegIx) (n : Nibble) (px py : Nat) : Bool :=
  let c := (px + Config.dispW - (s.reg x).toNat % Config.dispW) % Config.dispW
  let r := (py + Config.dispH - (s.reg y).toNat % Config.dispH) % Config.dispH
  decide (c < 8 ∧ r < n.toNat) && (s.mem.read (s.effAddr r)).getLsbD (7 - c)

/-- The registers an instruction writes, as a destination or as the flag (10_state.md R21, R29; 43_index_memory.md
R225). -/
def writesReg : Instr → RegIx → Bool
  | .ldVB x _, r | .addVB x _, r | .rnd x _, r => r == x
  | .ldVV x _, r | .orVV x _, r | .andVV x _, r | .xorVV x _, r | .ldVDT x, r => r == x
  | .addVV x _, r | .sub x _, r | .shr x _, r | .subn x _, r | .shl x _, r => r == x || r == 0xF
  | .drw _ _ _, r => r == 0xF
  | .ldVM x, r => decide (r.toNat ≤ x.toNat)
  | .cls, _ | .ret, _ | .jp _, _ | .call _, _ | .seVB _ _, _ | .sneVB _ _, _ | .seVV _ _, _ | .sneVV _ _, _
  | .ldI _, _ | .jpV0 _, _ | .skp _, _ | .sknp _, _ | .ldVK _, _ | .ldDTV _, _ | .ldSTV _, _ | .addIV _, _
  | .ldFV _, _ | .ldBV _, _ | .ldMV _, _ => false

/-- The parts of the state an instruction may change, from the pseudocode of its rule (40_step.md R129), the answer it
takes off a port included. -/
def mayWrite : Instr → List Part
  | .cls => [.pc, .fb]
  | .ret | .call _ => [.pc, .stack, .mode, .err]
  | .jp _ | .jpV0 _ | .seVB _ _ | .sneVB _ _ | .seVV _ _ | .sneVV _ _ => [.pc]
  | .ldVB _ _ | .addVB _ _ | .ldVV _ _ | .orVV _ _ | .andVV _ _ | .xorVV _ _ | .addVV _ _ | .sub _ _ | .shr _ _
  | .subn _ _ | .shl _ _ | .ldVDT _ | .ldVM _ => [.pc, .v]
  | .rnd _ _ => [.pc, .v, .mode, .err, .randIn, .draws]
  | .ldI _ | .addIV _ | .ldFV _ => [.pc, .i]
  | .drw _ _ _ => [.pc, .v, .fb, .mode, .err, .presented, .presentIn, .draws]
  | .skp _ | .sknp _ => [.pc, .mode, .err, .keysIn, .draws]
  | .ldVK _ => [.pc, .kwPrev, .mode, .err, .keysIn, .draws]
  | .ldDTV _ => [.pc, .dt]
  | .ldSTV _ => [.pc, .st]
  | .ldBV _ | .ldMV _ => [.pc, .mem, .mode, .err]

/-- How many bytes, at I on, an instruction stores (20_memory.md R70). -/
def storedBytes : Instr → Nat
  | .ldBV _ => 3
  | .ldMV x => x.toNat + 1
  | .cls | .ret | .jp _ | .call _ | .seVB _ _ | .sneVB _ _ | .seVV _ _ | .ldVB _ _ | .addVB _ _ | .ldVV _ _ | .orVV _ _
  | .andVV _ _ | .xorVV _ _ | .addVV _ _ | .sub _ _ | .shr _ _ | .subn _ _ | .shl _ _ | .sneVV _ _ | .ldI _ | .jpV0 _
  | .rnd _ _ | .drw _ _ _ | .skp _ | .sknp _ | .ldVDT _ | .ldVK _ | .ldDTV _ | .ldSTV _ | .addIV _ | .ldFV _
  | .ldVM _ => 0

/-- The errors an instruction may raise (60_exceptions.md R320). -/
def mayRaise : Instr → List ErrorKind
  | .ret => [.stackUnderflow]
  | .call _ => [.stackOverflow]
  | .ldBV _ | .ldMV _ => [.fontWrite]
  | .rnd _ _ | .drw _ _ _ | .ldVK _ => [.capabilityError]
  | .skp _ | .sknp _ => [.keyIndexRange, .capabilityError]
  | .cls | .jp _ | .seVB _ _ | .sneVB _ _ | .seVV _ _ | .ldVB _ _ | .addVB _ _ | .ldVV _ _ | .orVV _ _ | .andVV _ _
  | .xorVV _ _ | .addVV _ _ | .sub _ _ | .shr _ _ | .subn _ _ | .shl _ _ | .sneVV _ _ | .ldI _ | .jpV0 _ | .ldVDT _
  | .ldDTV _ | .ldSTV _ | .addIV _ | .ldFV _ | .ldVM _ => []

/-- PC after an instruction that raises no error: the table of 10_state.md R25. For the key skips, whether the skip is
taken is left to the statement about them. -/
def PcAsTabled (i : Instr) (s t : State) : Prop :=
  match i with
  | .jp nnn | .call nnn => t.pc.toNat = nnn.toNat % Config.memSize
  | .jpV0 nnn => t.pc.toNat = (nnn.toNat + (s.reg 0).toNat) % Config.memSize
  | .ret => ∃ r, s.stack.getLast? = some r ∧ t.pc.toNat = r.toNat % Config.memSize
  | .seVB x nn => t.pc.toNat = if s.reg x = nn then pcPlus s 4 else pcPlus s 2
  | .sneVB x nn => t.pc.toNat = if s.reg x ≠ nn then pcPlus s 4 else pcPlus s 2
  | .seVV x y => t.pc.toNat = if s.reg x = s.reg y then pcPlus s 4 else pcPlus s 2
  | .sneVV x y => t.pc.toNat = if s.reg x ≠ s.reg y then pcPlus s 4 else pcPlus s 2
  | .skp _ | .sknp _ => t.pc.toNat = pcPlus s 4 ∨ t.pc.toNat = pcPlus s 2
  | .cls | .ldVB _ _ | .addVB _ _ | .ldVV _ _ | .orVV _ _ | .andVV _ _ | .xorVV _ _ | .addVV _ _ | .sub _ _ | .shr _ _
  | .subn _ _ | .shl _ _ | .ldI _ | .rnd _ _ | .drw _ _ _ | .ldVDT _ | .ldVK _ | .ldDTV _ | .ldSTV _ | .addIV _
  | .ldFV _ | .ldBV _ | .ldMV _ | .ldVM _ => t.pc.toNat = pcPlus s 2

/-- A key is down in `K` and was up in `prev` (45_timers_input.md R287, under `edge`). -/
def NewlyDown (K prev : Word) (k : Nat) : Prop := k < 16 ∧ K.getLsbD k = true ∧ prev.getLsbD k = false

/-- The next transition is a Step in mode Running (40_step.md R122). -/
def AboutToStep (s : State) : Prop := s.mode = .running ∧ s.nextEvent = .step

/-- The next transition is a poll of the key wait for Vx (40_step.md R122, R130). -/
def AboutToPoll (s : State) (x : RegIx) : Prop := s.mode = .awaitingKey x ∧ s.nextEvent = .step

/-- A Tick or a Cancel is enabled (40_step.md R122). -/
def Enabled (s : State) : Prop := s.mode = .running ∨ ∃ x, s.mode = .awaitingKey x

end Sys2Proof.Claims

open Sys2Proof Sys2Proof.Machine Sys2Proof.Claims

/-! ### Encoding -/

/-- 30_encoding.md R91, R92, R96: the decoder reads back every instruction, with every operand, from its word. -/
def Obligations.DecodeEncodeRoundTrip : Prop := ∀ i : Instr, decode (encode i) = .ok i

/-- 30_encoding.md R92, R96, R100: a word that decodes is the word of the instruction it decodes to, the ignored y field
of the shifts included: no bit of it is dropped. -/
def Obligations.EncodeOfDecodedWord : Prop := ∀ (w : Word) (i : Instr), decode w = .ok i → encode i = w

/-- 30_encoding.md R97: the words that match no row are exactly those of R97's list, and executing one raises
DecodeError, which reports the raw word and the current PC. -/
def Obligations.IllegalWordsRaiseDecodeError : Prop :=
  (∀ w : Word, (∃ r, decode w = .error r) ↔ IllegalWord w) ∧
  ∀ s : State, AboutToStep s → IllegalWord s.fetchWord → ∃ (t : State) (r : ErrorRecord), step s = .next t ∧
    t.mode = .halted .decodeError ∧ t.err = some r ∧ r.kind = .decodeError ∧ r.word = some s.fetchWord ∧
    r.pc = some s.pc

/-- 40_step.md R125, 60_exceptions.md R311, R312, R316 (the spec's decision D19): what a DecodeError records, and that
nothing else of the core changes; that the Step is taken off the environment's list is the model's choice (log 1). -/
def Obligations.DecodeErrorRecordsWordAndAddress : Prop :=
  ∀ s : State, AboutToStep s → IllegalWord s.fetchWord →
    ∃ t, step s = .next t ∧ t.events = s.events.tail ∧
      HaltedWith [.events] s t .decodeError 1 (some s.pc) (some s.fetchWord) .none

/-- 30_encoding.md R96: words written out from the encoding of a row of each format decode to that row's instruction. -/
def Obligations.DecodeOfWrittenWords : Prop :=
  decode 0b0000000011100000#16 = .ok .cls ∧
  decode 0b0010001100000100#16 = .ok (.call 0x304) ∧
  decode 0b0011101001000010#16 = .ok (.seVB 0xA 0x42) ∧
  decode 0b1000000100100101#16 = .ok (.sub 0x1 0x2) ∧
  decode 0b1101001101000101#16 = .ok (.drw 0x3 0x4 0x5) ∧
  decode 0b1111101100110011#16 = .ok (.ldBV 0xB)

/-! ### Memory and fetch -/

/-- 20_memory.md R60: the fetch is big-endian, from the bytes at PC and (PC + 1) mod MEM_SIZE. -/
def Obligations.FetchIsBigEndian : Prop :=
  ∀ s : State, s.fetchWord.toNat =
    256 * (s.mem.read s.pc.toNat).toNat + (s.mem.read ((s.pc.toNat + 1) % Config.memSize)).toNat

/-- 20_memory.md R64: every address is reduced modulo MEM_SIZE at the access; a fetch at MEM_SIZE - 1 reads the bytes at
MEM_SIZE - 1 and 0, a block read or written past MEM_SIZE - 1 continues at 0, and an access with I of MEM_SIZE or more
touches I mod MEM_SIZE. -/
def Obligations.AddressesWrapAtTheAccess : Prop :=
  (∀ (m : Memory) (a : Nat), m.read a = m.read (a % Config.memSize)) ∧
  (∀ (m : Memory) (a : Nat) (v : Byte), m.write a v = m.write (a % Config.memSize) v) ∧
  (∀ s : State, s.pc.toNat = Config.memSize - 1 →
    s.fetchWord.toNat = 256 * (s.mem.read (Config.memSize - 1)).toNat + (s.mem.read 0).toNat) ∧
  (∀ (s : State) (k n : Nat), k < n → (s.loadBlock n)[k]? = some (s.mem.read ((s.i.toNat + k) % Config.memSize))) ∧
  (∀ (m : Memory) (a k : Nat) (bs : List Byte), (h : k < bs.length) → bs.length ≤ Config.memSize →
    (m.writeBytes a bs).read ((a + k) % Config.memSize) = bs[k])

/-- 20_memory.md R76: a byte that Fx55 or Fx33 stores where the next instruction is fetched is in the very next fetch: at
the address after the instruction it is the word's high byte, one further on its low byte. -/
def Obligations.StoresAreSeenByTheNextFetch : Prop :=
  ∀ (s : State) (x : RegIx),
    (ClearOfFont s (x.toNat + 1) → ∃ t, exec (.ldMV x) s = .next t ∧ ∀ r : RegIx, r.toNat ≤ x.toNat →
      (s.effAddr r.toNat % Config.memSize = pcPlus s 2 → t.fetchWord.toNat / 256 = (s.reg r).toNat) ∧
      (s.effAddr r.toNat % Config.memSize = pcPlus s 3 → t.fetchWord.toNat % 256 = (s.reg r).toNat)) ∧
    (ClearOfFont s 3 → ∃ t, exec (.ldBV x) s = .next t ∧
      ∀ k d : Nat, (k, d) ∈ [(0, (s.reg x).toNat / 100), (1, (s.reg x).toNat / 10 % 10), (2, (s.reg x).toNat % 10)] →
        (s.effAddr k % Config.memSize = pcPlus s 2 → t.fetchWord.toNat / 256 = d) ∧
        (s.effAddr k % Config.memSize = pcPlus s 3 → t.fetchWord.toNat % 256 = d))

/-! ### The step and the other transitions -/

/-- 40_step.md R123, R126: a Step in mode Running executes the instruction its fetched word decodes to. What the step
adds around `exec` is taking the transition off the environment's list (log 1); the fetch's advance of PC is inside
`exec` (log 7). -/
def Obligations.StepRunsDecodedInstruction : Prop :=
  ∀ (s : State) (i : Instr), AboutToStep s → decode s.fetchWord = .ok i →
    step s = exec i s.afterEvent ∧ s.afterEvent.events = s.events.tail ∧ SameExcept [.events] s s.afterEvent

/-- 40_step.md R122, R131: a transition is enabled exactly in Running and AwaitingKey; in Halted and Stopped the machine
is stuck (the model's faults `halted` and `stopped`, log 4), and no step is ever refused. -/
def Obligations.TransitionsEnabledExactlyWhileRunningOrWaiting : Prop :=
  ∀ s : State,
    (Enabled s → ∃ t, step s = .next t) ∧
    (∀ k, s.mode = .halted k → step s = .fault (.halted k)) ∧
    (s.mode = .stopped → step s = .fault .stopped)

/-- 60_exceptions.md R323: a Tick, in Running or AwaitingKey, decrements both timers, floor at zero, and changes nothing
else of the core; that it is taken off the environment's list is the model's choice (log 1); and a Step never decrements a timer: only Fx15 changes DT and only Fx18 ST. -/
def Obligations.TickDecrementsBothTimers : Prop :=
  (∀ s : State, Enabled s → s.nextEvent = .tick →
    ∃ t, step s = .next t ∧ t.dt.toNat = s.dt.toNat - 1 ∧ t.st.toNat = s.st.toNat - 1 ∧
      t.events = s.events.tail ∧ SameExcept [.dt, .st, .events] s t) ∧
  (∀ s t : State, s.nextEvent = .step → step s = .next t →
    (t.dt = s.dt ∨ s.mode = .running ∧ ∃ x, decode s.fetchWord = .ok (.ldDTV x)) ∧
    (t.st = s.st ∨ s.mode = .running ∧ ∃ x, decode s.fetchWord = .ok (.ldSTV x)))

/-- 40_step.md R133 (the spec's decision D26): a Cancel, in Running or AwaitingKey, sets mode to Stopped and changes
nothing else of the core; that it is taken off the environment's list is the model's choice (log 1). -/
def Obligations.CancelStopsTheCore : Prop :=
  ∀ s : State, Enabled s → s.nextEvent = .cancel →
    ∃ t, step s = .next t ∧ t.mode = .stopped ∧ t.events = s.events.tail ∧ SameExcept [.mode, .events] s t

/-- 45_timers_input.md R287, R288 (the spec's decision D18, `edge`): a poll whose sample shows a key newly down ends the
wait with the lowest such key in Vx, and changes nothing else of the core; the lists of the environment are the model's
choice (log 1, 2). -/
def Obligations.PollWithNewKeyEndsTheWait : Prop :=
  ∀ (s : State) (x : RegIx) (K : Word) (k : Nat), AboutToPoll s x → s.sampleKeys.1 = .value K →
    NewlyDown K s.kwPrev k → (∀ j, j < k → ¬ NewlyDown K s.kwPrev j) →
    ∃ t, step s = .next t ∧ (t.reg x).toNat = k ∧ t.mode = .running ∧ (∀ r, r ≠ x → t.reg r = s.reg r) ∧
      t.keysIn = s.keysIn.tail ∧ t.events = s.events.tail ∧
      SameExcept [.v, .mode, .events, .keysIn, .draws] s t

/-- 45_timers_input.md R287 (the spec's decision D18, `edge`): a poll whose sample shows no key newly down stores the
sample in kw_prev and goes on waiting, so a key held since the entry does not end the wait; the
lists of the environment are the model's choice (log 1, 2). -/
def Obligations.PollWithoutNewKeyGoesOnWaiting : Prop :=
  ∀ (s : State) (x : RegIx) (K : Word), AboutToPoll s x → s.sampleKeys.1 = .value K →
    (∀ k, ¬ NewlyDown K s.kwPrev k) →
    ∃ t, step s = .next t ∧ t.kwPrev = K ∧ t.mode = .awaitingKey x ∧ t.keysIn = s.keysIn.tail ∧
      t.events = s.events.tail ∧ SameExcept [.kwPrev, .events, .keysIn, .draws] s t

/-- 60_exceptions.md R311, R314 (the spec's decisions D19, D27): a poll whose query fails raises CapabilityError with the
address of the Fx0A, two before PC (log 8), and no word. -/
def Obligations.PollWithFailedQueryHalts : Prop :=
  ∀ (s : State) (x : RegIx), AboutToPoll s x → s.sampleKeys.1 = .failure →
    ∃ (t : State) (a : Word), step s = .next t ∧ a.toNat < Config.memSize ∧
      (a.toNat + 2) % Config.memSize = s.pc.toNat % Config.memSize ∧
      HaltedWith [.events, .keysIn, .draws] s t .capabilityError 4 (some a) none (.collaborator .input)

/-- 10_state.md R33, 60_exceptions.md R330, 40_step.md R133: a step leaves Running only into AwaitingKey(x) by Fx0A, into
Halted by an error, or into Stopped by a Cancel; and leaves AwaitingKey only by a newly pressed key, a Cancel, or a
failed query. -/
def Obligations.ModeChangesOnlyAsDescribed : Prop :=
  (∀ s t : State, s.mode = .running → step s = .next t →
    t.mode = .running ∨
    (∃ x, t.mode = .awaitingKey x ∧ s.nextEvent = .step ∧ decode s.fetchWord = .ok (.ldVK x)) ∨
    (∃ k, t.mode = .halted k ∧ s.nextEvent = .step) ∨
    (t.mode = .stopped ∧ s.nextEvent = .cancel)) ∧
  (∀ (s t : State) (x : RegIx), s.mode = .awaitingKey x → step s = .next t →
    t.mode = .awaitingKey x ∨
    (t.mode = .running ∧ s.nextEvent = .step ∧ ∃ K k, s.sampleKeys.1 = .value K ∧ NewlyDown K s.kwPrev k) ∨
    (t.mode = .halted .capabilityError ∧ s.nextEvent = .step ∧ s.sampleKeys.1 = .failure) ∨
    (t.mode = .stopped ∧ s.nextEvent = .cancel))

/-- 40_step.md R137 (derived there): a jump to itself is a fixed point of Step. The environment's list is empty, so that
nothing is taken off it. -/
def Obligations.SelfJumpIsFixedPoint : Prop :=
  ∀ (s : State) (nnn : Addr12), s.mode = .running → s.events = [] → s.pc.toNat = nnn.toNat →
    decode s.fetchWord = .ok (.jp nnn) → step s = .next s

/-! ### Rules of the whole machine -/

/-- 10_state.md R25 (derived there): PC after each instruction; after one that raises an error it is still the address of
the instruction. -/
def Obligations.ProgramCounterAfterInstruction : Prop :=
  ∀ (i : Instr) (s t : State), s.mode = .running → exec i s = .next t →
    ((∃ k, t.mode = .halted k) ∧ t.pc = s.pc) ∨ ((∀ k, t.mode ≠ .halted k) ∧ PcAsTabled i s t)

/-- 10_state.md R21, R29, 40_step.md R129 (the spec's decision D12): a register that is neither a destination of the
instruction nor the VF it writes as a flag is unchanged. -/
def Obligations.RegistersChangeOnlyAsDestinations : Prop :=
  ∀ (i : Instr) (s t : State) (r : RegIx), exec i s = .next t → writesReg i r = false → t.reg r = s.reg r

/-- 40_step.md R129 (the spec's decision D12), 10_state.md R21, R28, R29, R30, R31, R32, R36, 20_memory.md R70,
43_index_memory.md R226: an instruction changes no part of the state that its rule does not write; of the registers only
its destinations and the VF it writes as a flag; of memory only the bytes it stores, at I + k reduced modulo MEM_SIZE for k
below their number (none, for an instruction that stores nothing). -/
def Obligations.InstructionFrame : Prop :=
  ∀ (i : Instr) (s t : State), exec i s = .next t →
    SameExcept (mayWrite i) s t ∧
    (∀ r, writesReg i r = false → t.reg r = s.reg r) ∧
    (∀ a, (∀ k, k < storedBytes i → a % Config.memSize ≠ s.effAddr k % Config.memSize) →
      t.mem.read a = s.mem.read a)

/-- 60_exceptions.md R316 (the spec's decisions D19, D20): an instruction that halts the core has discarded every other
effect, and the record holds the kind, its code, the address and the word of the instruction. (D19: a claim about a
program should read only `err` of such a state.) -/
def Obligations.ErrorsDiscardEveryOtherEffect : Prop :=
  ∀ (i : Instr) (s t : State) (k : ErrorKind), s.mode = .running → exec i s = .next t → t.mode = .halted k →
    ∃ (code : Nat) (info : ErrorInfo),
      HaltedWith [.keysIn, .randIn, .presentIn, .draws] s t k code (some s.pc) (some (encode i)) info ∧
      (k, code) ∈ [(ErrorKind.stackUnderflow, 2), (.capabilityError, 4), (.stackOverflow, 5), (.fontWrite, 6),
        (.keyIndexRange, 7)]

/-- 60_exceptions.md R320 (the spec's decision D21): each instruction raises only its own errors; 25 of them none. -/
def Obligations.InstructionsRaiseOnlyTheirErrors : Prop :=
  ∀ (i : Instr) (s t : State) (k : ErrorKind), s.mode = .running → exec i s = .next t → t.mode = .halted k →
    k ∈ mayRaise i

/-- 10_state.md R23, R30, R35, 20_memory.md R66 (the spec's decisions D10, D7, D14): every step from a state that
satisfies the invariant gives a state that satisfies it. -/
def Obligations.StepKeepsInvariant : Prop := ∀ s t : State, s.Inv → step s = .next t → t.Inv

/-- 70_reset_and_hazards.md R350: the state after reset satisfies the invariant. -/
def Obligations.ResetSatisfiesInvariant : Prop := State.reset.Inv

/-- 20_memory.md R66 (the spec's decision D14, FONT_WRITE = fault), 90_conflicts.md C4: no step, from any state, changes a
byte of the font region. -/
def Obligations.FontRegionIsNeverMutated : Prop :=
  ∀ (s t : State) (a : Nat), step s = .next t → FontAddr (a % Config.memSize) → t.mem.read a = s.mem.read a

/-- 44_display.md R257 (the spec's decision D27): a present is emitted only by a Dxyn, exactly one, carrying the
framebuffer as that Dxyn left it. -/
def Obligations.OnlyDrawPresents : Prop :=
  ∀ s t : State, step s = .next t →
    (t.presented = s.presented ∧ ¬ ((∃ x y n, decode s.fetchWord = .ok (.drw x y n)) ∧ AboutToStep s ∧
      s.askRenderer.1 = .value ())) ∨
    (t.presented = s.presented ++ [t.fb] ∧ (∃ x y n, decode s.fetchWord = .ok (.drw x y n)) ∧ AboutToStep s ∧
      s.askRenderer.1 = .value ())

/-- 10_state.md R32, R34 (the spec's decisions D9, D18): no instruction reads ST, and no instruction reads kw_prev. -/
def Obligations.SoundTimerAndKwPrevAreNotRead : Prop :=
  ∀ (i : Instr) (s t : State), exec i s = .next t →
    (∀ b : Byte, (∀ x, i ≠ .ldSTV x) → exec i (s.setSt b) = .next (t.setSt b)) ∧
    (∀ k : Word, (∀ x, i ≠ .ldVK x) → exec i (s.setKwPrev k) = .next (t.setKwPrev k))

/-! ### Construction and reset -/

/-- 60_exceptions.md R315, and the record of R311, whose code 3 is the spec's decision D20: an image longer than MEM_SIZE - PROGRAM_OFFSET is reported as LoadOverflow with its length, at
construction, and no core exists; a shorter one is accepted. -/
def Obligations.ConstructionRejectsLongImages : Prop :=
  ∀ rom : List Byte,
    (Config.memSize - Config.programOffset < rom.length →
      construct rom = .error { kind := .loadOverflow, code := 3, pc := none, word := none, info := .length rom.length }) ∧
    (rom.length ≤ Config.memSize - Config.programOffset → ∃ s, construct rom = .ok s)

/-- 70_reset_and_hazards.md R350, 20_memory.md R68, R69 (the spec's decisions D3, D4, D5, D8): after construction the image
stands verbatim from PROGRAM_OFFSET on, the font in its region, 0x00 elsewhere, and the rest is the reset state. -/
def Obligations.ConstructionPlacesImage : Prop :=
  ∀ rom : List Byte, rom.length ≤ Config.memSize - Config.programOffset →
    ∃ s, construct rom = .ok s ∧ SameExcept [.mem] State.reset s ∧ s.mem.wf = true ∧
      (∀ j, (h : j < rom.length) → s.mem.read (Config.programOffset + j) = rom[j]) ∧
      (∀ j, (h : j < Config.fontData.length) → s.mem.read (Config.fontBase + j) = Config.fontData[j]) ∧
      (∀ a, a < Config.memSize → ¬ FontAddr a →
        ¬ (Config.programOffset ≤ a ∧ a < Config.programOffset + rom.length) → s.mem.read a = 0x00)

/-- 70_reset_and_hazards.md R350, 10_state.md R22, R27, R28, R30, R31, R32, R33, R34, R35, R36, 20_memory.md R69,
44_display.md R258 (the spec's decisions D3, D9, D18, log 11, 12; D4, D5, D8 for memory, log 10, 12): every part of the
spec's state after reset, all 80 bytes of FONT_DATA among it. -/
def Obligations.ResetStateValues : Prop :=
  (∀ r, State.reset.reg r = 0x00) ∧ State.reset.i = 0x0000 ∧ State.reset.pc = 0x0200 ∧ State.reset.stack = [] ∧
  State.reset.dt = 0 ∧ State.reset.st = 0 ∧ State.reset.mode = .running ∧ State.reset.kwPrev = 0x0000 ∧
  State.reset.err = none ∧ (∀ px py, State.reset.fb.pixel px py = false) ∧
  Config.fontData.length = 0x50 ∧
  (∀ j, (h : j < Config.fontData.length) → State.reset.mem.read (Config.fontBase + j) = Config.fontData[j]) ∧
  (∀ a, 0x50 ≤ a → a < 0x1000 → State.reset.mem.read a = 0x00)

/-! ### Control transfer -/

/-- 41_control_flow.md R152, R158: JP and JP V0 set PC to nnn and to nnn + V0, modulo MEM_SIZE, and nothing else. -/
def Obligations.JumpsSetTheProgramCounter : Prop :=
  ∀ (s : State) (nnn : Addr12),
    (∃ t, exec (.jp nnn) s = .next t ∧ t.pc.toNat = nnn.toNat % Config.memSize ∧ SameExcept [.pc] s t) ∧
    (∃ t, exec (.jpV0 nnn) s = .next t ∧ t.pc.toNat = (nnn.toNat + (s.reg 0).toNat) % Config.memSize ∧
      SameExcept [.pc] s t)

/-- 41_control_flow.md R154, R155, R156, R157: the four register skips: PC four past the instruction when the condition
holds, two otherwise, and nothing else. -/
def Obligations.SkipsFollowTheirCondition : Prop :=
  ∀ (s : State) (x y : RegIx) (nn : Byte),
    (∃ t, exec (.seVB x nn) s = .next t ∧ SkippedIf [] s t (s.reg x = nn)) ∧
    (∃ t, exec (.sneVB x nn) s = .next t ∧ SkippedIf [] s t (s.reg x ≠ nn)) ∧
    (∃ t, exec (.seVV x y) s = .next t ∧ SkippedIf [] s t (s.reg x = s.reg y)) ∧
    (∃ t, exec (.sneVV x y) s = .next t ∧ SkippedIf [] s t (s.reg x ≠ s.reg y))

/-- 41_control_flow.md R153, 60_exceptions.md R317 (the spec's decision D7): CALL pushes the address after it and jumps;
on a full stack it raises StackOverflow. The spec speaks of a stack of exactly STACK_DEPTH entries; that a longer one, which
no run reaches, counts as full is the model's choice (log 21). -/
def Obligations.CallPushesReturnAddress : Prop :=
  ∀ (s : State) (nnn : Addr12),
    (s.stack.length < Config.stackDepth →
      ∃ (t : State) (ra : Word), exec (.call nnn) s = .next t ∧ t.stack = s.stack ++ [ra] ∧ ra.toNat = pcPlus s 2 ∧
        t.pc.toNat = nnn.toNat % Config.memSize ∧ SameExcept [.pc, .stack] s t) ∧
    (Config.stackDepth ≤ s.stack.length →
      ∃ t, exec (.call nnn) s = .next t ∧
        HaltedWith [] s t .stackOverflow 5 (some s.pc) (some (encode (.call nnn))) .none)

/-- 41_control_flow.md R151, 60_exceptions.md R313: RET pops the top of the stack into PC; on an empty stack it raises
StackUnderflow, with the address and the word in its record, and the stack and PC unchanged. -/
def Obligations.RetPopsReturnAddress : Prop :=
  ∀ s : State,
    (∀ (rest : List Word) (ra : Word), s.stack = rest ++ [ra] →
      ∃ t, exec .ret s = .next t ∧ t.stack = rest ∧ t.pc.toNat = ra.toNat % Config.memSize ∧
        SameExcept [.pc, .stack] s t) ∧
    (s.stack = [] → ∃ (t : State) (r : ErrorRecord), exec .ret s = .next t ∧ t.mode = .halted .stackUnderflow ∧
      t.err = some r ∧ r.kind = .stackUnderflow ∧ r.pc = some s.pc ∧ r.word = some 0x00EE ∧ t.stack = s.stack ∧
      t.pc = s.pc)

/-- 41_control_flow.md R151, R153: a RET in any state that holds the stack a CALL left returns to the address after the
CALL and restores the stack. -/
def Obligations.ReturnUndoesCall : Prop :=
  ∀ (s t u : State) (nnn : Addr12), s.stack.length < Config.stackDepth → exec (.call nnn) s = .next t →
    u.stack = t.stack → ∃ w, exec .ret u = .next w ∧ w.stack = s.stack ∧ w.pc.toNat = pcPlus s 2

/-! ### Loads and the ALU -/

/-- 42_alu.md R181, R183, 45_timers_input.md R280: LD Vx, nn; LD Vx, Vy; LD Vx, DT. -/
def Obligations.LoadsWriteVx : Prop :=
  ∀ (s : State) (x y : RegIx) (nn : Byte),
    (∃ t, exec (.ldVB x nn) s = .next t ∧ RegWritten [] s t x nn) ∧
    (∃ t, exec (.ldVV x y) s = .next t ∧ RegWritten [] s t x (s.reg y)) ∧
    (∃ t, exec (.ldVDT x) s = .next t ∧ RegWritten [] s t x s.dt)

/-- 42_alu.md R182: ADD Vx, nn is modulo 256, with no carry out: VF is unchanged unless it is the destination. -/
def Obligations.AddImmediateWraps : Prop :=
  ∀ (s : State) (x : RegIx) (nn : Byte),
    ∃ (t : State) (b : Byte), exec (.addVB x nn) s = .next t ∧ b.toNat = ((s.reg x).toNat + nn.toNat) % 256 ∧
      RegWritten [] s t x b

/-- 42_alu.md R184, R185, R186 (VF unchanged is the spec's decision D12): OR, AND and XOR, bit by bit. -/
def Obligations.LogicIsBitwise : Prop :=
  ∀ (s : State) (x y : RegIx),
    (∃ (t : State) (b : Byte), exec (.orVV x y) s = .next t ∧ RegWritten [] s t x b ∧
      ∀ k, k < 8 → b.getLsbD k = ((s.reg x).getLsbD k || (s.reg y).getLsbD k)) ∧
    (∃ (t : State) (b : Byte), exec (.andVV x y) s = .next t ∧ RegWritten [] s t x b ∧
      ∀ k, k < 8 → b.getLsbD k = ((s.reg x).getLsbD k && (s.reg y).getLsbD k)) ∧
    (∃ (t : State) (b : Byte), exec (.xorVV x y) s = .next t ∧ RegWritten [] s t x b ∧
      ∀ k, k < 8 → b.getLsbD k = ((s.reg x).getLsbD k != (s.reg y).getLsbD k))

/-- 42_alu.md R187: ADD Vx, Vy, with the carry in VF. For x = 0xF the flag wins (R180, the spec's decision D11). -/
def Obligations.AddSetsCarry : Prop :=
  ∀ (s : State) (x y : RegIx),
    ∃ t, exec (.addVV x y) s = .next t ∧
      FlagWritten s t x (((s.reg x).toNat + (s.reg y).toNat) % 256)
        (if (s.reg x).toNat + (s.reg y).toNat > 255 then 1 else 0)

/-- 42_alu.md R188, R190: SUB and SUBN, with "no borrow" in VF. For x = 0xF the flag wins (R180, the spec's decision
D11). -/
def Obligations.SubtractionsSetNoBorrow : Prop :=
  ∀ (s : State) (x y : RegIx),
    (∃ t, exec (.sub x y) s = .next t ∧
      FlagWritten s t x (((s.reg x).toNat + 256 - (s.reg y).toNat) % 256)
        (if (s.reg x).toNat ≥ (s.reg y).toNat then 1 else 0)) ∧
    (∃ t, exec (.subn x y) s = .next t ∧
      FlagWritten s t x (((s.reg y).toNat + 256 - (s.reg x).toNat) % 256)
        (if (s.reg y).toNat ≥ (s.reg x).toNat then 1 else 0))

/-- 42_alu.md R189, R191: SHR and SHL of Vx by one, with the bit shifted out in VF; Vy is not read. For x = 0xF the flag
wins (R180, the spec's decision D11). -/
def Obligations.ShiftsSetShiftedOutBit : Prop :=
  ∀ (s : State) (x y : RegIx),
    (∃ t, exec (.shr x y) s = .next t ∧ FlagWritten s t x ((s.reg x).toNat / 2) ((s.reg x).toNat % 2)) ∧
    (∃ t, exec (.shl x y) s = .next t ∧ FlagWritten s t x ((s.reg x).toNat * 2 % 256) ((s.reg x).toNat / 128))

/-- 42_alu.md R192 (the draw is the spec's decision D23), 60_exceptions.md R314: RND writes the drawn byte masked with nn,
one draw whatever nn is; a failing provider raises CapabilityError. Holds for every drawn byte; the port's list is the
model's choice (log 2, 3). -/
def Obligations.RandomMasksTheDraw : Prop :=
  ∀ (s : State) (x : RegIx) (nn : Byte),
    (∀ r : Byte, s.drawRandom.1 = .value r →
      ∃ t, exec (.rnd x nn) s = .next t ∧ t.randIn = s.randIn.tail ∧
        RegWritten [.randIn, .draws] s t x (r &&& nn)) ∧
    (s.drawRandom.1 = .failure →
      ∃ t, exec (.rnd x nn) s = .next t ∧
        HaltedWith [.randIn, .draws] s t .capabilityError 4 (some s.pc) (some (encode (.rnd x nn)))
          (.collaborator .random))

/-! ### The index register and memory -/

/-- 43_index_memory.md R220, R222: LD I, nnn, and LD F, Vx, whose Vx is not masked. -/
def Obligations.IndexLoads : Prop :=
  ∀ (s : State) (x : RegIx) (nnn : Addr12),
    (∃ t, exec (.ldI nnn) s = .next t ∧ t.i.toNat = nnn.toNat ∧ t.pc.toNat = pcPlus s 2 ∧ SameExcept [.i, .pc] s t) ∧
    (∃ t, exec (.ldFV x) s = .next t ∧ t.i.toNat = Config.fontBase + 5 * (s.reg x).toNat ∧ t.pc.toNat = pcPlus s 2 ∧
      SameExcept [.i, .pc] s t)

/-- 43_index_memory.md R221 (the spec's decisions D12, D13): ADD I, Vx is modulo 2^16, and VF is unchanged. -/
def Obligations.AddIndexWraps : Prop :=
  ∀ (s : State) (x : RegIx),
    ∃ t, exec (.addIV x) s = .next t ∧ t.i.toNat = (s.i.toNat + (s.reg x).toNat) % 2 ^ 16 ∧
      t.pc.toNat = pcPlus s 2 ∧ SameExcept [.i, .pc] s t

/-- 43_index_memory.md R223: LD B, Vx stores the three decimal digits at I, I + 1, I + 2, or raises FontWrite (R227,
20_memory.md R66, the spec's decision D14) and writes nothing. -/
def Obligations.BcdStoresDigits : Prop :=
  ∀ (s : State) (x : RegIx),
    (ClearOfFont s 3 → ∃ t, exec (.ldBV x) s = .next t ∧
      BytesStored s t 3 (fun k => if k = 0 then (s.reg x).toNat / 100 else
        if k = 1 then (s.reg x).toNat / 10 % 10 else (s.reg x).toNat % 10)) ∧
    (∀ a : Nat, FirstFontTarget s 3 a → ∃ (t : State) (w : Word), exec (.ldBV x) s = .next t ∧ w.toNat = a ∧
      HaltedWith [] s t .fontWrite 6 (some s.pc) (some (encode (.ldBV x))) (.address w))

/-- 43_index_memory.md R224, R227 (I unchanged and FontWrite are the spec's decisions D12, D14): LD [I], Vx stores V0..Vx at
I .. I + x, or raises FontWrite and writes nothing. -/
def Obligations.BlockStoreWritesRegisters : Prop :=
  ∀ (s : State) (x : RegIx),
    (ClearOfFont s (x.toNat + 1) → ∃ t, exec (.ldMV x) s = .next t ∧
      BytesStored s t (x.toNat + 1) (fun k => (s.reg (BitVec.ofNat 4 k)).toNat)) ∧
    (∀ a : Nat, FirstFontTarget s (x.toNat + 1) a → ∃ (t : State) (w : Word), exec (.ldMV x) s = .next t ∧
      w.toNat = a ∧ HaltedWith [] s t .fontWrite 6 (some s.pc) (some (encode (.ldMV x))) (.address w))

/-- 43_index_memory.md R225 (I unchanged is the spec's decision D12): LD Vx, [I] loads V0..Vx from I .. I + x, and changes
nothing else. -/
def Obligations.BlockLoadReadsRegisters : Prop :=
  ∀ (s : State) (x : RegIx),
    ∃ t, exec (.ldVM x) s = .next t ∧
      (∀ r, r.toNat ≤ x.toNat → t.reg r = s.mem.read (s.effAddr r.toNat)) ∧
      (∀ r, x.toNat < r.toNat → t.reg r = s.reg r) ∧ t.pc.toNat = pcPlus s 2 ∧ SameExcept [.v, .pc] s t

/-- 43_index_memory.md R225, source property (95_test_vectors.md E7): Fx65 after Fx55, with the same x and I and nothing
else written to the block in between, restores V0..Vx. -/
def Obligations.StoreThenLoadRestoresRegisters : Prop :=
  ∀ (s t u : State) (x : RegIx), ClearOfFont s (x.toNat + 1) → exec (.ldMV x) s = .next t → u.i = s.i →
    (∀ k, k ≤ x.toNat → u.mem.read (s.effAddr k) = t.mem.read (s.effAddr k)) →
    ∃ w, exec (.ldVM x) u = .next w ∧ ∀ r, r.toNat ≤ x.toNat → w.reg r = s.reg r

/-! ### The display -/

/-- 44_display.md R251: CLS clears every pixel; it emits no present and VF is unchanged. -/
def Obligations.ClearEmptiesTheFramebuffer : Prop :=
  ∀ s : State, ∃ t, exec .cls s = .next t ∧ (∀ px py, t.fb.pixel px py = false) ∧ t.pc.toNat = pcPlus s 2 ∧
    SameExcept [.fb, .pc] s t

/-- 44_display.md R252, R254: DRW, whose pixel-by-pixel loop comes to this: each pixel is XORed with the bit of the sprite
aimed at it, wrapping at the edges; VF is 1 exactly when a pixel went from 1 to 0 (R256, the spec's decision D6); one
present follows (R257, D27). A failing renderer raises CapabilityError and nothing is drawn. Bit 7 is the leftmost column
(R255, D15, log 17). The renderer's list of answers is the model's choice (log 2, 3). -/
def Obligations.DrawXorsSpriteAndReportsCollision : Prop :=
  ∀ (s : State) (x y : RegIx) (n : Nibble),
    (s.askRenderer.1 = .value () → ∃ t, exec (.drw x y n) s = .next t ∧
      (∀ px py, px < Config.dispW → py < Config.dispH →
        t.fb.pixel px py = (s.fb.pixel px py != spriteAt s x y n px py)) ∧
      (t.reg 0xF = 0 ∨ t.reg 0xF = 1) ∧
      (t.reg 0xF = 1 ↔ ∃ px py, px < Config.dispW ∧ py < Config.dispH ∧ s.fb.pixel px py = true ∧
        t.fb.pixel px py = false) ∧
      (∀ r, r ≠ 0xF → t.reg r = s.reg r) ∧ t.presented = s.presented ++ [t.fb] ∧
      t.presentIn = s.presentIn.tail ∧ t.pc.toNat = pcPlus s 2 ∧
      SameExcept [.v, .pc, .fb, .presented, .presentIn, .draws] s t) ∧
    (s.askRenderer.1 = .failure → ∃ t, exec (.drw x y n) s = .next t ∧
      HaltedWith [.presentIn, .draws] s t .capabilityError 4 (some s.pc) (some (encode (.drw x y n)))
        (.collaborator .renderer))

/-- 44_display.md R252, R256 (95_test_vectors.md E4): drawing the same sprite again at the same place gives back the
framebuffer of before the first draw, and reports a collision exactly when a set bit of the sprite met a pixel that was 0
before the first draw. Which pixel a bit of the sprite meets rests on bit 7 being the leftmost column (R255, the spec's
decision D15, PRESUMED, log 17). -/
def Obligations.DrawingTwiceErases : Prop :=
  ∀ (s t u w : State) (x y : RegIx) (n : Nibble), s.askRenderer.1 = .value () → exec (.drw x y n) s = .next t →
    u.fb = t.fb → u.reg x = s.reg x → u.reg y = s.reg y → u.i = s.i → (∀ a, u.mem.read a = s.mem.read a) →
    u.askRenderer.1 = .value () → exec (.drw x y n) u = .next w →
    (∀ px py, w.fb.pixel px py = s.fb.pixel px py) ∧
    (w.reg 0xF = 1 ↔ (∃ r c, r < n.toNat ∧ c < 8 ∧ (s.mem.read (s.effAddr r)).getLsbD (7 - c) = true ∧
        s.fb.pixel ((s.reg x).toNat + c) ((s.reg y).toNat + r) = false))

/-! ### Timers and keys -/

/-- 45_timers_input.md R281, R282: LD DT, Vx and LD ST, Vx. -/
def Obligations.TimerLoads : Prop :=
  ∀ (s : State) (x : RegIx),
    (∃ t, exec (.ldDTV x) s = .next t ∧ t.dt = s.reg x ∧ t.pc.toNat = pcPlus s 2 ∧ SameExcept [.dt, .pc] s t) ∧
    (∃ t, exec (.ldSTV x) s = .next t ∧ t.st = s.reg x ∧ t.pc.toNat = pcPlus s 2 ∧ SameExcept [.st, .pc] s t)

/-- 45_timers_input.md R284, R285: SKP and SKNP sample the keys once and skip when key Vx is down, or up; Vx above 0xF
raises KeyIndexRange before any query (the spec's decision D17), and a failed query CapabilityError. The port's list is the
model's choice (log 2, 3). -/
def Obligations.KeySkipsSampleOnce : Prop :=
  ∀ (s : State) (x : RegIx),
    ((s.reg x).toNat ≤ 0xF → ∀ K : Word, s.sampleKeys.1 = .value K →
      (∃ t, exec (.skp x) s = .next t ∧ t.keysIn = s.keysIn.tail ∧
        SkippedIf [.keysIn, .draws] s t (K.getLsbD (s.reg x).toNat = true)) ∧
      (∃ t, exec (.sknp x) s = .next t ∧ t.keysIn = s.keysIn.tail ∧
        SkippedIf [.keysIn, .draws] s t (K.getLsbD (s.reg x).toNat = false))) ∧
    ((s.reg x).toNat ≤ 0xF → s.sampleKeys.1 = .failure →
      (∃ t, exec (.skp x) s = .next t ∧ HaltedWith [.keysIn, .draws] s t .capabilityError 4 (some s.pc)
        (some (encode (.skp x))) (.collaborator .input)) ∧
      (∃ t, exec (.sknp x) s = .next t ∧ HaltedWith [.keysIn, .draws] s t .capabilityError 4 (some s.pc)
        (some (encode (.sknp x))) (.collaborator .input))) ∧
    (0xF < (s.reg x).toNat →
      (∃ t, exec (.skp x) s = .next t ∧ HaltedWith [] s t .keyIndexRange 7 (some s.pc) (some (encode (.skp x)))
        (.key (s.reg x))) ∧
      (∃ t, exec (.sknp x) s = .next t ∧ HaltedWith [] s t .keyIndexRange 7 (some s.pc) (some (encode (.sknp x)))
        (.key (s.reg x))))

/-- 45_timers_input.md R286 (the spec's decision D18): Fx0A samples the keys into kw_prev and enters AwaitingKey(x), even
with a key down; Vx is not written. A failed query raises CapabilityError. The port's list is the model's choice (log 2,
3). -/
def Obligations.KeyWaitEntry : Prop :=
  ∀ (s : State) (x : RegIx),
    (∀ K : Word, s.sampleKeys.1 = .value K →
      ∃ t, exec (.ldVK x) s = .next t ∧ t.kwPrev = K ∧ t.mode = .awaitingKey x ∧ t.keysIn = s.keysIn.tail ∧
        t.pc.toNat = pcPlus s 2 ∧ SameExcept [.kwPrev, .mode, .pc, .keysIn, .draws] s t) ∧
    (s.sampleKeys.1 = .failure →
      ∃ t, exec (.ldVK x) s = .next t ∧
        HaltedWith [.keysIn, .draws] s t .capabilityError 4 (some s.pc) (some (encode (.ldVK x)))
          (.collaborator .input))
end

