-- ==== Sys2Proof/Laws/Decode.lean ====
section
/-! SUPPORT. The fields of an encoded word, and a word from its bytes: the lemmas from which the round trips follow. -/

namespace Sys2Proof

@[simp] theorem opField_encodeA (op : BitVec 4) (nnn : Addr12) :
    opField (encodeA op nnn) = op := by
  apply BitVec.eq_of_getLsbD_eq
  intro i hi
  simp only [opField, encodeA, BitVec.getLsbD_append, BitVec.getLsbD_extractLsb', hi, decide_true, Bool.true_and]
  simp [show 12 + i - 12 = i by omega]

@[simp] theorem nnnField_encodeA (op : BitVec 4) (nnn : Addr12) :
    nnnField (encodeA op nnn) = nnn := by
  apply BitVec.eq_of_getLsbD_eq
  intro i hi
  simp only [nnnField, encodeA, BitVec.getLsbD_append, BitVec.getLsbD_extractLsb', hi, decide_true, Bool.true_and]
  simp [show i < 12 from hi]

@[simp] theorem opField_encodeXNN (op : BitVec 4) (x : RegIx) (nn : Byte) :
    opField (encodeXNN op x nn) = op := by
  apply BitVec.eq_of_getLsbD_eq
  intro i hi
  simp only [opField, encodeXNN, BitVec.getLsbD_append, BitVec.getLsbD_extractLsb', hi, decide_true, Bool.true_and]
  simp [show ¬ (12 + i < 12) by omega, show 12 + i - 12 = i by omega]

@[simp] theorem xField_encodeXNN (op : BitVec 4) (x : RegIx) (nn : Byte) :
    xField (encodeXNN op x nn) = x := by
  apply BitVec.eq_of_getLsbD_eq
  intro i hi
  simp only [xField, encodeXNN, BitVec.getLsbD_append, BitVec.getLsbD_extractLsb', hi, decide_true, Bool.true_and]
  simp [show 8 + i < 12 by omega, show 8 + i - 8 = i by omega]

@[simp] theorem nnField_encodeXNN (op : BitVec 4) (x : RegIx) (nn : Byte) :
    nnField (encodeXNN op x nn) = nn := by
  apply BitVec.eq_of_getLsbD_eq
  intro i hi
  simp only [nnField, encodeXNN, BitVec.getLsbD_append, BitVec.getLsbD_extractLsb', hi, decide_true, Bool.true_and]
  simp [show i < 12 by omega, show i < 8 by omega]

@[simp] theorem opField_encodeXY (op : BitVec 4) (x y : RegIx) (s : BitVec 4) :
    opField (encodeXY op x y s) = op := by
  apply BitVec.eq_of_getLsbD_eq
  intro i hi
  simp only [opField, encodeXY, BitVec.getLsbD_append, BitVec.getLsbD_extractLsb', hi, decide_true, Bool.true_and]
  simp [show ¬ (12 + i < 12) by omega, show 12 + i - 12 = i by omega]

@[simp] theorem xField_encodeXY (op : BitVec 4) (x y : RegIx) (s : BitVec 4) :
    xField (encodeXY op x y s) = x := by
  apply BitVec.eq_of_getLsbD_eq
  intro i hi
  simp only [xField, encodeXY, BitVec.getLsbD_append, BitVec.getLsbD_extractLsb', hi, decide_true, Bool.true_and]
  simp [show 8 + i < 12 by omega, show ¬ (8 + i < 8) by omega, show 8 + i - 8 = i by omega]

@[simp] theorem yField_encodeXY (op : BitVec 4) (x y : RegIx) (s : BitVec 4) :
    yField (encodeXY op x y s) = y := by
  apply BitVec.eq_of_getLsbD_eq
  intro i hi
  simp only [yField, encodeXY, BitVec.getLsbD_append, BitVec.getLsbD_extractLsb', hi, decide_true, Bool.true_and]
  simp [show 4 + i < 12 by omega, show 4 + i < 8 by omega, show 4 + i - 4 = i by omega]

@[simp] theorem nField_encodeXY (op : BitVec 4) (x y : RegIx) (s : BitVec 4) :
    nField (encodeXY op x y s) = s := by
  apply BitVec.eq_of_getLsbD_eq
  intro i hi
  simp only [nField, encodeXY, BitVec.getLsbD_append, BitVec.getLsbD_extractLsb', hi, decide_true, Bool.true_and]
  simp [show i < 12 by omega, show i < 8 by omega, show i < 4 by omega]

/-- A word is its class nibble and its nnn field. -/
theorem encodeA_fields (w : Word) : encodeA (opField w) (nnnField w) = w := by
  apply BitVec.eq_of_getLsbD_eq
  intro i hi
  simp only [encodeA, opField, nnnField, BitVec.getLsbD_append, BitVec.getLsbD_extractLsb']
  split
  · simp_all
  · simp only [show i - 12 < 4 by omega, decide_true, Bool.true_and]
    congr 1; omega

/-- A word is its class nibble, x field and nn field. -/
theorem encodeXNN_fields (w : Word) : encodeXNN (opField w) (xField w) (nnField w) = w := by
  apply BitVec.eq_of_getLsbD_eq
  intro i hi
  simp only [encodeXNN, opField, xField, nnField, BitVec.getLsbD_append, BitVec.getLsbD_extractLsb']
  by_cases h8 : i < 8
  · simp [h8, show i < 12 by omega]
  · by_cases h12 : i < 12
    · simp [h8, h12, show i - 8 < 4 by omega, show 8 + (i - 8) = i by omega]
    · simp [h12, show i - 12 < 4 by omega, show 12 + (i - 12) = i by omega]

/-- A word is its four nibbles. -/
theorem encodeXY_fields (w : Word) : encodeXY (opField w) (xField w) (yField w) (nField w) = w := by
  apply BitVec.eq_of_getLsbD_eq
  intro i hi
  simp only [encodeXY, opField, xField, yField, nField, BitVec.getLsbD_append, BitVec.getLsbD_extractLsb']
  by_cases h4 : i < 4
  · simp [h4, show i < 8 by omega, show i < 12 by omega]
  · by_cases h8 : i < 8
    · simp [h4, h8, show i < 12 by omega, show i - 4 < 4 by omega, show 4 + (i - 4) = i by omega]
    · by_cases h12 : i < 12
      · simp [h8, h12, show i - 8 < 4 by omega, show 8 + (i - 8) = i by omega]
      · simp [h12, show i - 12 < 4 by omega, show 12 + (i - 12) = i by omega]

/-- The two bytes of a word give it back (20_memory.md R60). -/
@[simp] theorem wordOfBytes_hi_lo (w : Word) : wordOfBytes (wordHi w) (wordLo w) = w := by
  apply BitVec.eq_of_getLsbD_eq
  intro i hi
  simp only [wordOfBytes, wordHi, wordLo, BitVec.getLsbD_append, BitVec.getLsbD_extractLsb']
  by_cases h8 : i < 8
  · simp [h8]
  · simp [h8, show i - 8 < 8 by omega, show 8 + (i - 8) = i by omega]

/-- A word of two bytes as a number (20_memory.md R60). -/
theorem wordOfBytes_toNat (hi lo : Byte) : (wordOfBytes hi lo).toNat = 256 * hi.toNat + lo.toNat := by
  simp only [wordOfBytes, BitVec.toNat_append]
  rw [← Nat.shiftLeft_add_eq_or_of_lt lo.isLt, Nat.shiftLeft_eq]
  omega

theorem opField_toNat (w : Word) : (opField w).toNat = w.toNat / 4096 := by
  have := w.isLt
  simp only [opField, BitVec.extractLsb'_toNat, Nat.shiftRight_eq_div_pow]
  omega

theorem nnnField_toNat (w : Word) : (nnnField w).toNat = w.toNat % 4096 := by
  simp [nnnField, BitVec.extractLsb'_toNat]

theorem nnField_toNat (w : Word) : (nnField w).toNat = w.toNat % 256 := by
  simp [nnField, BitVec.extractLsb'_toNat]

theorem nField_toNat (w : Word) : (nField w).toNat = w.toNat % 16 := by
  simp [nField, BitVec.extractLsb'_toNat]

end Sys2Proof
end

