-- ==== Sys2Proof/Laws/State.lean ====
section
/-! SUPPORT. One lemma per field per update, each true by rfl, so that no later proof unfolds a record update; and the
reads of registers after each update. The updates that write PC say its value as a number (setPc_toNat and after it). -/

namespace Sys2Proof.Machine

section setReg

variable (s : State) (r : RegIx) (b : Byte)

@[simp] theorem State.setReg_v : (s.setReg r b).v = s.v.set r.toNat b r.isLt := rfl
@[simp] theorem State.setReg_pc : (s.setReg r b).pc = s.pc := rfl
@[simp] theorem State.setReg_i : (s.setReg r b).i = s.i := rfl
@[simp] theorem State.setReg_stack : (s.setReg r b).stack = s.stack := rfl
@[simp] theorem State.setReg_dt : (s.setReg r b).dt = s.dt := rfl
@[simp] theorem State.setReg_st : (s.setReg r b).st = s.st := rfl
@[simp] theorem State.setReg_mode : (s.setReg r b).mode = s.mode := rfl
@[simp] theorem State.setReg_kwPrev : (s.setReg r b).kwPrev = s.kwPrev := rfl
@[simp] theorem State.setReg_err : (s.setReg r b).err = s.err := rfl
@[simp] theorem State.setReg_fb : (s.setReg r b).fb = s.fb := rfl
@[simp] theorem State.setReg_mem : (s.setReg r b).mem = s.mem := rfl
@[simp] theorem State.setReg_presented : (s.setReg r b).presented = s.presented := rfl
@[simp] theorem State.setReg_events : (s.setReg r b).events = s.events := rfl
@[simp] theorem State.setReg_keysIn : (s.setReg r b).keysIn = s.keysIn := rfl
@[simp] theorem State.setReg_randIn : (s.setReg r b).randIn = s.randIn := rfl
@[simp] theorem State.setReg_presentIn : (s.setReg r b).presentIn = s.presentIn := rfl
@[simp] theorem State.setReg_draws : (s.setReg r b).draws = s.draws := rfl

end setReg

section setRegBlock

variable (s : State) (bs : List Byte)

@[simp] theorem State.setRegBlock_v : (s.setRegBlock bs).v = Vector.ofFn fun k : Fin 16 => bs.getD k.val s.v[k] := rfl
@[simp] theorem State.setRegBlock_pc : (s.setRegBlock bs).pc = s.pc := rfl
@[simp] theorem State.setRegBlock_i : (s.setRegBlock bs).i = s.i := rfl
@[simp] theorem State.setRegBlock_stack : (s.setRegBlock bs).stack = s.stack := rfl
@[simp] theorem State.setRegBlock_dt : (s.setRegBlock bs).dt = s.dt := rfl
@[simp] theorem State.setRegBlock_st : (s.setRegBlock bs).st = s.st := rfl
@[simp] theorem State.setRegBlock_mode : (s.setRegBlock bs).mode = s.mode := rfl
@[simp] theorem State.setRegBlock_kwPrev : (s.setRegBlock bs).kwPrev = s.kwPrev := rfl
@[simp] theorem State.setRegBlock_err : (s.setRegBlock bs).err = s.err := rfl
@[simp] theorem State.setRegBlock_fb : (s.setRegBlock bs).fb = s.fb := rfl
@[simp] theorem State.setRegBlock_mem : (s.setRegBlock bs).mem = s.mem := rfl
@[simp] theorem State.setRegBlock_presented : (s.setRegBlock bs).presented = s.presented := rfl
@[simp] theorem State.setRegBlock_events : (s.setRegBlock bs).events = s.events := rfl
@[simp] theorem State.setRegBlock_keysIn : (s.setRegBlock bs).keysIn = s.keysIn := rfl
@[simp] theorem State.setRegBlock_randIn : (s.setRegBlock bs).randIn = s.randIn := rfl
@[simp] theorem State.setRegBlock_presentIn : (s.setRegBlock bs).presentIn = s.presentIn := rfl
@[simp] theorem State.setRegBlock_draws : (s.setRegBlock bs).draws = s.draws := rfl

end setRegBlock

section setPc

variable (s : State) (n : Nat)

@[simp] theorem State.setPc_v : (s.setPc n).v = s.v := rfl
theorem State.setPc_pc : (s.setPc n).pc = BitVec.ofNat 16 (n % Config.memSize) := rfl
@[simp] theorem State.setPc_i : (s.setPc n).i = s.i := rfl
@[simp] theorem State.setPc_stack : (s.setPc n).stack = s.stack := rfl
@[simp] theorem State.setPc_dt : (s.setPc n).dt = s.dt := rfl
@[simp] theorem State.setPc_st : (s.setPc n).st = s.st := rfl
@[simp] theorem State.setPc_mode : (s.setPc n).mode = s.mode := rfl
@[simp] theorem State.setPc_kwPrev : (s.setPc n).kwPrev = s.kwPrev := rfl
@[simp] theorem State.setPc_err : (s.setPc n).err = s.err := rfl
@[simp] theorem State.setPc_fb : (s.setPc n).fb = s.fb := rfl
@[simp] theorem State.setPc_mem : (s.setPc n).mem = s.mem := rfl
@[simp] theorem State.setPc_presented : (s.setPc n).presented = s.presented := rfl
@[simp] theorem State.setPc_events : (s.setPc n).events = s.events := rfl
@[simp] theorem State.setPc_keysIn : (s.setPc n).keysIn = s.keysIn := rfl
@[simp] theorem State.setPc_randIn : (s.setPc n).randIn = s.randIn := rfl
@[simp] theorem State.setPc_presentIn : (s.setPc n).presentIn = s.presentIn := rfl
@[simp] theorem State.setPc_draws : (s.setPc n).draws = s.draws := rfl
@[simp] theorem State.setPc_reg (q : RegIx) : (s.setPc n).reg q = s.reg q := rfl

end setPc

section setI

variable (s : State) (w : Word)

@[simp] theorem State.setI_v : (s.setI w).v = s.v := rfl
@[simp] theorem State.setI_pc : (s.setI w).pc = s.pc := rfl
@[simp] theorem State.setI_i : (s.setI w).i = w := rfl
@[simp] theorem State.setI_stack : (s.setI w).stack = s.stack := rfl
@[simp] theorem State.setI_dt : (s.setI w).dt = s.dt := rfl
@[simp] theorem State.setI_st : (s.setI w).st = s.st := rfl
@[simp] theorem State.setI_mode : (s.setI w).mode = s.mode := rfl
@[simp] theorem State.setI_kwPrev : (s.setI w).kwPrev = s.kwPrev := rfl
@[simp] theorem State.setI_err : (s.setI w).err = s.err := rfl
@[simp] theorem State.setI_fb : (s.setI w).fb = s.fb := rfl
@[simp] theorem State.setI_mem : (s.setI w).mem = s.mem := rfl
@[simp] theorem State.setI_presented : (s.setI w).presented = s.presented := rfl
@[simp] theorem State.setI_events : (s.setI w).events = s.events := rfl
@[simp] theorem State.setI_keysIn : (s.setI w).keysIn = s.keysIn := rfl
@[simp] theorem State.setI_randIn : (s.setI w).randIn = s.randIn := rfl
@[simp] theorem State.setI_presentIn : (s.setI w).presentIn = s.presentIn := rfl
@[simp] theorem State.setI_draws : (s.setI w).draws = s.draws := rfl
@[simp] theorem State.setI_reg (q : RegIx) : (s.setI w).reg q = s.reg q := rfl

end setI

section setStack

variable (s : State) (l : List Word)

@[simp] theorem State.setStack_v : (s.setStack l).v = s.v := rfl
@[simp] theorem State.setStack_pc : (s.setStack l).pc = s.pc := rfl
@[simp] theorem State.setStack_i : (s.setStack l).i = s.i := rfl
@[simp] theorem State.setStack_stack : (s.setStack l).stack = l := rfl
@[simp] theorem State.setStack_dt : (s.setStack l).dt = s.dt := rfl
@[simp] theorem State.setStack_st : (s.setStack l).st = s.st := rfl
@[simp] theorem State.setStack_mode : (s.setStack l).mode = s.mode := rfl
@[simp] theorem State.setStack_kwPrev : (s.setStack l).kwPrev = s.kwPrev := rfl
@[simp] theorem State.setStack_err : (s.setStack l).err = s.err := rfl
@[simp] theorem State.setStack_fb : (s.setStack l).fb = s.fb := rfl
@[simp] theorem State.setStack_mem : (s.setStack l).mem = s.mem := rfl
@[simp] theorem State.setStack_presented : (s.setStack l).presented = s.presented := rfl
@[simp] theorem State.setStack_events : (s.setStack l).events = s.events := rfl
@[simp] theorem State.setStack_keysIn : (s.setStack l).keysIn = s.keysIn := rfl
@[simp] theorem State.setStack_randIn : (s.setStack l).randIn = s.randIn := rfl
@[simp] theorem State.setStack_presentIn : (s.setStack l).presentIn = s.presentIn := rfl
@[simp] theorem State.setStack_draws : (s.setStack l).draws = s.draws := rfl
@[simp] theorem State.setStack_reg (q : RegIx) : (s.setStack l).reg q = s.reg q := rfl

end setStack

section setDt

variable (s : State) (b : Byte)

@[simp] theorem State.setDt_v : (s.setDt b).v = s.v := rfl
@[simp] theorem State.setDt_pc : (s.setDt b).pc = s.pc := rfl
@[simp] theorem State.setDt_i : (s.setDt b).i = s.i := rfl
@[simp] theorem State.setDt_stack : (s.setDt b).stack = s.stack := rfl
@[simp] theorem State.setDt_dt : (s.setDt b).dt = b := rfl
@[simp] theorem State.setDt_st : (s.setDt b).st = s.st := rfl
@[simp] theorem State.setDt_mode : (s.setDt b).mode = s.mode := rfl
@[simp] theorem State.setDt_kwPrev : (s.setDt b).kwPrev = s.kwPrev := rfl
@[simp] theorem State.setDt_err : (s.setDt b).err = s.err := rfl
@[simp] theorem State.setDt_fb : (s.setDt b).fb = s.fb := rfl
@[simp] theorem State.setDt_mem : (s.setDt b).mem = s.mem := rfl
@[simp] theorem State.setDt_presented : (s.setDt b).presented = s.presented := rfl
@[simp] theorem State.setDt_events : (s.setDt b).events = s.events := rfl
@[simp] theorem State.setDt_keysIn : (s.setDt b).keysIn = s.keysIn := rfl
@[simp] theorem State.setDt_randIn : (s.setDt b).randIn = s.randIn := rfl
@[simp] theorem State.setDt_presentIn : (s.setDt b).presentIn = s.presentIn := rfl
@[simp] theorem State.setDt_draws : (s.setDt b).draws = s.draws := rfl
@[simp] theorem State.setDt_reg (q : RegIx) : (s.setDt b).reg q = s.reg q := rfl

end setDt

section setSt

variable (s : State) (b : Byte)

@[simp] theorem State.setSt_v : (s.setSt b).v = s.v := rfl
@[simp] theorem State.setSt_pc : (s.setSt b).pc = s.pc := rfl
@[simp] theorem State.setSt_i : (s.setSt b).i = s.i := rfl
@[simp] theorem State.setSt_stack : (s.setSt b).stack = s.stack := rfl
@[simp] theorem State.setSt_dt : (s.setSt b).dt = s.dt := rfl
@[simp] theorem State.setSt_st : (s.setSt b).st = b := rfl
@[simp] theorem State.setSt_mode : (s.setSt b).mode = s.mode := rfl
@[simp] theorem State.setSt_kwPrev : (s.setSt b).kwPrev = s.kwPrev := rfl
@[simp] theorem State.setSt_err : (s.setSt b).err = s.err := rfl
@[simp] theorem State.setSt_fb : (s.setSt b).fb = s.fb := rfl
@[simp] theorem State.setSt_mem : (s.setSt b).mem = s.mem := rfl
@[simp] theorem State.setSt_presented : (s.setSt b).presented = s.presented := rfl
@[simp] theorem State.setSt_events : (s.setSt b).events = s.events := rfl
@[simp] theorem State.setSt_keysIn : (s.setSt b).keysIn = s.keysIn := rfl
@[simp] theorem State.setSt_randIn : (s.setSt b).randIn = s.randIn := rfl
@[simp] theorem State.setSt_presentIn : (s.setSt b).presentIn = s.presentIn := rfl
@[simp] theorem State.setSt_draws : (s.setSt b).draws = s.draws := rfl
@[simp] theorem State.setSt_reg (q : RegIx) : (s.setSt b).reg q = s.reg q := rfl

end setSt

section setMode

variable (s : State) (m : Mode)

@[simp] theorem State.setMode_v : (s.setMode m).v = s.v := rfl
@[simp] theorem State.setMode_pc : (s.setMode m).pc = s.pc := rfl
@[simp] theorem State.setMode_i : (s.setMode m).i = s.i := rfl
@[simp] theorem State.setMode_stack : (s.setMode m).stack = s.stack := rfl
@[simp] theorem State.setMode_dt : (s.setMode m).dt = s.dt := rfl
@[simp] theorem State.setMode_st : (s.setMode m).st = s.st := rfl
@[simp] theorem State.setMode_mode : (s.setMode m).mode = m := rfl
@[simp] theorem State.setMode_kwPrev : (s.setMode m).kwPrev = s.kwPrev := rfl
@[simp] theorem State.setMode_err : (s.setMode m).err = s.err := rfl
@[simp] theorem State.setMode_fb : (s.setMode m).fb = s.fb := rfl
@[simp] theorem State.setMode_mem : (s.setMode m).mem = s.mem := rfl
@[simp] theorem State.setMode_presented : (s.setMode m).presented = s.presented := rfl
@[simp] theorem State.setMode_events : (s.setMode m).events = s.events := rfl
@[simp] theorem State.setMode_keysIn : (s.setMode m).keysIn = s.keysIn := rfl
@[simp] theorem State.setMode_randIn : (s.setMode m).randIn = s.randIn := rfl
@[simp] theorem State.setMode_presentIn : (s.setMode m).presentIn = s.presentIn := rfl
@[simp] theorem State.setMode_draws : (s.setMode m).draws = s.draws := rfl
@[simp] theorem State.setMode_reg (q : RegIx) : (s.setMode m).reg q = s.reg q := rfl

end setMode

section setKwPrev

variable (s : State) (k : Word)

@[simp] theorem State.setKwPrev_v : (s.setKwPrev k).v = s.v := rfl
@[simp] theorem State.setKwPrev_pc : (s.setKwPrev k).pc = s.pc := rfl
@[simp] theorem State.setKwPrev_i : (s.setKwPrev k).i = s.i := rfl
@[simp] theorem State.setKwPrev_stack : (s.setKwPrev k).stack = s.stack := rfl
@[simp] theorem State.setKwPrev_dt : (s.setKwPrev k).dt = s.dt := rfl
@[simp] theorem State.setKwPrev_st : (s.setKwPrev k).st = s.st := rfl
@[simp] theorem State.setKwPrev_mode : (s.setKwPrev k).mode = s.mode := rfl
@[simp] theorem State.setKwPrev_kwPrev : (s.setKwPrev k).kwPrev = k := rfl
@[simp] theorem State.setKwPrev_err : (s.setKwPrev k).err = s.err := rfl
@[simp] theorem State.setKwPrev_fb : (s.setKwPrev k).fb = s.fb := rfl
@[simp] theorem State.setKwPrev_mem : (s.setKwPrev k).mem = s.mem := rfl
@[simp] theorem State.setKwPrev_presented : (s.setKwPrev k).presented = s.presented := rfl
@[simp] theorem State.setKwPrev_events : (s.setKwPrev k).events = s.events := rfl
@[simp] theorem State.setKwPrev_keysIn : (s.setKwPrev k).keysIn = s.keysIn := rfl
@[simp] theorem State.setKwPrev_randIn : (s.setKwPrev k).randIn = s.randIn := rfl
@[simp] theorem State.setKwPrev_presentIn : (s.setKwPrev k).presentIn = s.presentIn := rfl
@[simp] theorem State.setKwPrev_draws : (s.setKwPrev k).draws = s.draws := rfl
@[simp] theorem State.setKwPrev_reg (q : RegIx) : (s.setKwPrev k).reg q = s.reg q := rfl

end setKwPrev

section setFb

variable (s : State) (f : Framebuffer)

@[simp] theorem State.setFb_v : (s.setFb f).v = s.v := rfl
@[simp] theorem State.setFb_pc : (s.setFb f).pc = s.pc := rfl
@[simp] theorem State.setFb_i : (s.setFb f).i = s.i := rfl
@[simp] theorem State.setFb_stack : (s.setFb f).stack = s.stack := rfl
@[simp] theorem State.setFb_dt : (s.setFb f).dt = s.dt := rfl
@[simp] theorem State.setFb_st : (s.setFb f).st = s.st := rfl
@[simp] theorem State.setFb_mode : (s.setFb f).mode = s.mode := rfl
@[simp] theorem State.setFb_kwPrev : (s.setFb f).kwPrev = s.kwPrev := rfl
@[simp] theorem State.setFb_err : (s.setFb f).err = s.err := rfl
@[simp] theorem State.setFb_fb : (s.setFb f).fb = f := rfl
@[simp] theorem State.setFb_mem : (s.setFb f).mem = s.mem := rfl
@[simp] theorem State.setFb_presented : (s.setFb f).presented = s.presented := rfl
@[simp] theorem State.setFb_events : (s.setFb f).events = s.events := rfl
@[simp] theorem State.setFb_keysIn : (s.setFb f).keysIn = s.keysIn := rfl
@[simp] theorem State.setFb_randIn : (s.setFb f).randIn = s.randIn := rfl
@[simp] theorem State.setFb_presentIn : (s.setFb f).presentIn = s.presentIn := rfl
@[simp] theorem State.setFb_draws : (s.setFb f).draws = s.draws := rfl
@[simp] theorem State.setFb_reg (q : RegIx) : (s.setFb f).reg q = s.reg q := rfl

end setFb

section setMem

variable (s : State) (m : Memory)

@[simp] theorem State.setMem_v : (s.setMem m).v = s.v := rfl
@[simp] theorem State.setMem_pc : (s.setMem m).pc = s.pc := rfl
@[simp] theorem State.setMem_i : (s.setMem m).i = s.i := rfl
@[simp] theorem State.setMem_stack : (s.setMem m).stack = s.stack := rfl
@[simp] theorem State.setMem_dt : (s.setMem m).dt = s.dt := rfl
@[simp] theorem State.setMem_st : (s.setMem m).st = s.st := rfl
@[simp] theorem State.setMem_mode : (s.setMem m).mode = s.mode := rfl
@[simp] theorem State.setMem_kwPrev : (s.setMem m).kwPrev = s.kwPrev := rfl
@[simp] theorem State.setMem_err : (s.setMem m).err = s.err := rfl
@[simp] theorem State.setMem_fb : (s.setMem m).fb = s.fb := rfl
@[simp] theorem State.setMem_mem : (s.setMem m).mem = m := rfl
@[simp] theorem State.setMem_presented : (s.setMem m).presented = s.presented := rfl
@[simp] theorem State.setMem_events : (s.setMem m).events = s.events := rfl
@[simp] theorem State.setMem_keysIn : (s.setMem m).keysIn = s.keysIn := rfl
@[simp] theorem State.setMem_randIn : (s.setMem m).randIn = s.randIn := rfl
@[simp] theorem State.setMem_presentIn : (s.setMem m).presentIn = s.presentIn := rfl
@[simp] theorem State.setMem_draws : (s.setMem m).draws = s.draws := rfl
@[simp] theorem State.setMem_reg (q : RegIx) : (s.setMem m).reg q = s.reg q := rfl

end setMem

section emitPresent

variable (s : State)

@[simp] theorem State.emitPresent_v : (s.emitPresent).v = s.v := rfl
@[simp] theorem State.emitPresent_pc : (s.emitPresent).pc = s.pc := rfl
@[simp] theorem State.emitPresent_i : (s.emitPresent).i = s.i := rfl
@[simp] theorem State.emitPresent_stack : (s.emitPresent).stack = s.stack := rfl
@[simp] theorem State.emitPresent_dt : (s.emitPresent).dt = s.dt := rfl
@[simp] theorem State.emitPresent_st : (s.emitPresent).st = s.st := rfl
@[simp] theorem State.emitPresent_mode : (s.emitPresent).mode = s.mode := rfl
@[simp] theorem State.emitPresent_kwPrev : (s.emitPresent).kwPrev = s.kwPrev := rfl
@[simp] theorem State.emitPresent_err : (s.emitPresent).err = s.err := rfl
@[simp] theorem State.emitPresent_fb : (s.emitPresent).fb = s.fb := rfl
@[simp] theorem State.emitPresent_mem : (s.emitPresent).mem = s.mem := rfl
@[simp] theorem State.emitPresent_presented : (s.emitPresent).presented = s.presented ++ [s.fb] := rfl
@[simp] theorem State.emitPresent_events : (s.emitPresent).events = s.events := rfl
@[simp] theorem State.emitPresent_keysIn : (s.emitPresent).keysIn = s.keysIn := rfl
@[simp] theorem State.emitPresent_randIn : (s.emitPresent).randIn = s.randIn := rfl
@[simp] theorem State.emitPresent_presentIn : (s.emitPresent).presentIn = s.presentIn := rfl
@[simp] theorem State.emitPresent_draws : (s.emitPresent).draws = s.draws := rfl
@[simp] theorem State.emitPresent_reg (q : RegIx) : (s.emitPresent).reg q = s.reg q := rfl

end emitPresent

section afterEvent

variable (s : State)

@[simp] theorem State.afterEvent_v : (s.afterEvent).v = s.v := rfl
@[simp] theorem State.afterEvent_pc : (s.afterEvent).pc = s.pc := rfl
@[simp] theorem State.afterEvent_i : (s.afterEvent).i = s.i := rfl
@[simp] theorem State.afterEvent_stack : (s.afterEvent).stack = s.stack := rfl
@[simp] theorem State.afterEvent_dt : (s.afterEvent).dt = s.dt := rfl
@[simp] theorem State.afterEvent_st : (s.afterEvent).st = s.st := rfl
@[simp] theorem State.afterEvent_mode : (s.afterEvent).mode = s.mode := rfl
@[simp] theorem State.afterEvent_kwPrev : (s.afterEvent).kwPrev = s.kwPrev := rfl
@[simp] theorem State.afterEvent_err : (s.afterEvent).err = s.err := rfl
@[simp] theorem State.afterEvent_fb : (s.afterEvent).fb = s.fb := rfl
@[simp] theorem State.afterEvent_mem : (s.afterEvent).mem = s.mem := rfl
@[simp] theorem State.afterEvent_presented : (s.afterEvent).presented = s.presented := rfl
@[simp] theorem State.afterEvent_events : (s.afterEvent).events = s.events.tail := rfl
@[simp] theorem State.afterEvent_keysIn : (s.afterEvent).keysIn = s.keysIn := rfl
@[simp] theorem State.afterEvent_randIn : (s.afterEvent).randIn = s.randIn := rfl
@[simp] theorem State.afterEvent_presentIn : (s.afterEvent).presentIn = s.presentIn := rfl
@[simp] theorem State.afterEvent_draws : (s.afterEvent).draws = s.draws := rfl
@[simp] theorem State.afterEvent_reg (q : RegIx) : (s.afterEvent).reg q = s.reg q := rfl

end afterEvent

section raise

variable (s : State) (k : ErrorKind) (p w : Option Word) (n : ErrorInfo)

@[simp] theorem State.raise_v : (s.raise k p w n).v = s.v := rfl
@[simp] theorem State.raise_pc : (s.raise k p w n).pc = s.pc := rfl
@[simp] theorem State.raise_i : (s.raise k p w n).i = s.i := rfl
@[simp] theorem State.raise_stack : (s.raise k p w n).stack = s.stack := rfl
@[simp] theorem State.raise_dt : (s.raise k p w n).dt = s.dt := rfl
@[simp] theorem State.raise_st : (s.raise k p w n).st = s.st := rfl
@[simp] theorem State.raise_mode : (s.raise k p w n).mode = .halted k := rfl
@[simp] theorem State.raise_kwPrev : (s.raise k p w n).kwPrev = s.kwPrev := rfl
@[simp] theorem State.raise_err : (s.raise k p w n).err = some { kind := k, code := k.code, pc := p, word := w, info := n } := rfl
@[simp] theorem State.raise_fb : (s.raise k p w n).fb = s.fb := rfl
@[simp] theorem State.raise_mem : (s.raise k p w n).mem = s.mem := rfl
@[simp] theorem State.raise_presented : (s.raise k p w n).presented = s.presented := rfl
@[simp] theorem State.raise_events : (s.raise k p w n).events = s.events := rfl
@[simp] theorem State.raise_keysIn : (s.raise k p w n).keysIn = s.keysIn := rfl
@[simp] theorem State.raise_randIn : (s.raise k p w n).randIn = s.randIn := rfl
@[simp] theorem State.raise_presentIn : (s.raise k p w n).presentIn = s.presentIn := rfl
@[simp] theorem State.raise_draws : (s.raise k p w n).draws = s.draws := rfl
@[simp] theorem State.raise_reg (q : RegIx) : (s.raise k p w n).reg q = s.reg q := rfl

end raise

section advance

variable (s : State)

@[simp] theorem State.advance_v : (s.advance).v = s.v := rfl
theorem State.advance_pc : (s.advance).pc = BitVec.ofNat 16 ((s.pc.toNat + 2) % Config.memSize) := rfl
@[simp] theorem State.advance_i : (s.advance).i = s.i := rfl
@[simp] theorem State.advance_stack : (s.advance).stack = s.stack := rfl
@[simp] theorem State.advance_dt : (s.advance).dt = s.dt := rfl
@[simp] theorem State.advance_st : (s.advance).st = s.st := rfl
@[simp] theorem State.advance_mode : (s.advance).mode = s.mode := rfl
@[simp] theorem State.advance_kwPrev : (s.advance).kwPrev = s.kwPrev := rfl
@[simp] theorem State.advance_err : (s.advance).err = s.err := rfl
@[simp] theorem State.advance_fb : (s.advance).fb = s.fb := rfl
@[simp] theorem State.advance_mem : (s.advance).mem = s.mem := rfl
@[simp] theorem State.advance_presented : (s.advance).presented = s.presented := rfl
@[simp] theorem State.advance_events : (s.advance).events = s.events := rfl
@[simp] theorem State.advance_keysIn : (s.advance).keysIn = s.keysIn := rfl
@[simp] theorem State.advance_randIn : (s.advance).randIn = s.randIn := rfl
@[simp] theorem State.advance_presentIn : (s.advance).presentIn = s.presentIn := rfl
@[simp] theorem State.advance_draws : (s.advance).draws = s.draws := rfl
@[simp] theorem State.advance_reg (q : RegIx) : (s.advance).reg q = s.reg q := rfl

end advance

section skip

variable (s : State)

@[simp] theorem State.skip_v : (s.skip).v = s.v := rfl
theorem State.skip_pc : (s.skip).pc = BitVec.ofNat 16 ((s.pc.toNat + 2) % Config.memSize) := rfl
@[simp] theorem State.skip_i : (s.skip).i = s.i := rfl
@[simp] theorem State.skip_stack : (s.skip).stack = s.stack := rfl
@[simp] theorem State.skip_dt : (s.skip).dt = s.dt := rfl
@[simp] theorem State.skip_st : (s.skip).st = s.st := rfl
@[simp] theorem State.skip_mode : (s.skip).mode = s.mode := rfl
@[simp] theorem State.skip_kwPrev : (s.skip).kwPrev = s.kwPrev := rfl
@[simp] theorem State.skip_err : (s.skip).err = s.err := rfl
@[simp] theorem State.skip_fb : (s.skip).fb = s.fb := rfl
@[simp] theorem State.skip_mem : (s.skip).mem = s.mem := rfl
@[simp] theorem State.skip_presented : (s.skip).presented = s.presented := rfl
@[simp] theorem State.skip_events : (s.skip).events = s.events := rfl
@[simp] theorem State.skip_keysIn : (s.skip).keysIn = s.keysIn := rfl
@[simp] theorem State.skip_randIn : (s.skip).randIn = s.randIn := rfl
@[simp] theorem State.skip_presentIn : (s.skip).presentIn = s.presentIn := rfl
@[simp] theorem State.skip_draws : (s.skip).draws = s.draws := rfl
@[simp] theorem State.skip_reg (q : RegIx) : (s.skip).reg q = s.reg q := rfl

end skip

section push

variable (s : State) (w : Word)

@[simp] theorem State.push_v : (s.push w).v = s.v := rfl
@[simp] theorem State.push_pc : (s.push w).pc = s.pc := rfl
@[simp] theorem State.push_i : (s.push w).i = s.i := rfl
@[simp] theorem State.push_stack : (s.push w).stack = s.stack ++ [w] := rfl
@[simp] theorem State.push_dt : (s.push w).dt = s.dt := rfl
@[simp] theorem State.push_st : (s.push w).st = s.st := rfl
@[simp] theorem State.push_mode : (s.push w).mode = s.mode := rfl
@[simp] theorem State.push_kwPrev : (s.push w).kwPrev = s.kwPrev := rfl
@[simp] theorem State.push_err : (s.push w).err = s.err := rfl
@[simp] theorem State.push_fb : (s.push w).fb = s.fb := rfl
@[simp] theorem State.push_mem : (s.push w).mem = s.mem := rfl
@[simp] theorem State.push_presented : (s.push w).presented = s.presented := rfl
@[simp] theorem State.push_events : (s.push w).events = s.events := rfl
@[simp] theorem State.push_keysIn : (s.push w).keysIn = s.keysIn := rfl
@[simp] theorem State.push_randIn : (s.push w).randIn = s.randIn := rfl
@[simp] theorem State.push_presentIn : (s.push w).presentIn = s.presentIn := rfl
@[simp] theorem State.push_draws : (s.push w).draws = s.draws := rfl
@[simp] theorem State.push_reg (q : RegIx) : (s.push w).reg q = s.reg q := rfl

end push

section dropTop

variable (s : State)

@[simp] theorem State.dropTop_v : (s.dropTop).v = s.v := rfl
@[simp] theorem State.dropTop_pc : (s.dropTop).pc = s.pc := rfl
@[simp] theorem State.dropTop_i : (s.dropTop).i = s.i := rfl
@[simp] theorem State.dropTop_stack : (s.dropTop).stack = s.stack.dropLast := rfl
@[simp] theorem State.dropTop_dt : (s.dropTop).dt = s.dt := rfl
@[simp] theorem State.dropTop_st : (s.dropTop).st = s.st := rfl
@[simp] theorem State.dropTop_mode : (s.dropTop).mode = s.mode := rfl
@[simp] theorem State.dropTop_kwPrev : (s.dropTop).kwPrev = s.kwPrev := rfl
@[simp] theorem State.dropTop_err : (s.dropTop).err = s.err := rfl
@[simp] theorem State.dropTop_fb : (s.dropTop).fb = s.fb := rfl
@[simp] theorem State.dropTop_mem : (s.dropTop).mem = s.mem := rfl
@[simp] theorem State.dropTop_presented : (s.dropTop).presented = s.presented := rfl
@[simp] theorem State.dropTop_events : (s.dropTop).events = s.events := rfl
@[simp] theorem State.dropTop_keysIn : (s.dropTop).keysIn = s.keysIn := rfl
@[simp] theorem State.dropTop_randIn : (s.dropTop).randIn = s.randIn := rfl
@[simp] theorem State.dropTop_presentIn : (s.dropTop).presentIn = s.presentIn := rfl
@[simp] theorem State.dropTop_draws : (s.dropTop).draws = s.draws := rfl
@[simp] theorem State.dropTop_reg (q : RegIx) : (s.dropTop).reg q = s.reg q := rfl

end dropTop

section setRegFlag

variable (s : State) (x : RegIx) (b : Byte) (c : Bool)

@[simp] theorem State.setRegFlag_v : (s.setRegFlag x b c).v = (s.v.set x.toNat b x.isLt).set vfIx.toNat (flagByte c) vfIx.isLt := rfl
@[simp] theorem State.setRegFlag_pc : (s.setRegFlag x b c).pc = s.pc := rfl
@[simp] theorem State.setRegFlag_i : (s.setRegFlag x b c).i = s.i := rfl
@[simp] theorem State.setRegFlag_stack : (s.setRegFlag x b c).stack = s.stack := rfl
@[simp] theorem State.setRegFlag_dt : (s.setRegFlag x b c).dt = s.dt := rfl
@[simp] theorem State.setRegFlag_st : (s.setRegFlag x b c).st = s.st := rfl
@[simp] theorem State.setRegFlag_mode : (s.setRegFlag x b c).mode = s.mode := rfl
@[simp] theorem State.setRegFlag_kwPrev : (s.setRegFlag x b c).kwPrev = s.kwPrev := rfl
@[simp] theorem State.setRegFlag_err : (s.setRegFlag x b c).err = s.err := rfl
@[simp] theorem State.setRegFlag_fb : (s.setRegFlag x b c).fb = s.fb := rfl
@[simp] theorem State.setRegFlag_mem : (s.setRegFlag x b c).mem = s.mem := rfl
@[simp] theorem State.setRegFlag_presented : (s.setRegFlag x b c).presented = s.presented := rfl
@[simp] theorem State.setRegFlag_events : (s.setRegFlag x b c).events = s.events := rfl
@[simp] theorem State.setRegFlag_keysIn : (s.setRegFlag x b c).keysIn = s.keysIn := rfl
@[simp] theorem State.setRegFlag_randIn : (s.setRegFlag x b c).randIn = s.randIn := rfl
@[simp] theorem State.setRegFlag_presentIn : (s.setRegFlag x b c).presentIn = s.presentIn := rfl
@[simp] theorem State.setRegFlag_draws : (s.setRegFlag x b c).draws = s.draws := rfl

end setRegFlag

section ticked

variable (s : State)

@[simp] theorem State.ticked_v : (s.ticked).v = s.v := rfl
@[simp] theorem State.ticked_pc : (s.ticked).pc = s.pc := rfl
@[simp] theorem State.ticked_i : (s.ticked).i = s.i := rfl
@[simp] theorem State.ticked_stack : (s.ticked).stack = s.stack := rfl
@[simp] theorem State.ticked_dt : (s.ticked).dt = tickDown s.dt := rfl
@[simp] theorem State.ticked_st : (s.ticked).st = tickDown s.st := rfl
@[simp] theorem State.ticked_mode : (s.ticked).mode = s.mode := rfl
@[simp] theorem State.ticked_kwPrev : (s.ticked).kwPrev = s.kwPrev := rfl
@[simp] theorem State.ticked_err : (s.ticked).err = s.err := rfl
@[simp] theorem State.ticked_fb : (s.ticked).fb = s.fb := rfl
@[simp] theorem State.ticked_mem : (s.ticked).mem = s.mem := rfl
@[simp] theorem State.ticked_presented : (s.ticked).presented = s.presented := rfl
@[simp] theorem State.ticked_events : (s.ticked).events = s.events := rfl
@[simp] theorem State.ticked_keysIn : (s.ticked).keysIn = s.keysIn := rfl
@[simp] theorem State.ticked_randIn : (s.ticked).randIn = s.randIn := rfl
@[simp] theorem State.ticked_presentIn : (s.ticked).presentIn = s.presentIn := rfl
@[simp] theorem State.ticked_draws : (s.ticked).draws = s.draws := rfl
@[simp] theorem State.ticked_reg (q : RegIx) : (s.ticked).reg q = s.reg q := rfl

end ticked

section cancelled

variable (s : State)

@[simp] theorem State.cancelled_v : (s.cancelled).v = s.v := rfl
@[simp] theorem State.cancelled_pc : (s.cancelled).pc = s.pc := rfl
@[simp] theorem State.cancelled_i : (s.cancelled).i = s.i := rfl
@[simp] theorem State.cancelled_stack : (s.cancelled).stack = s.stack := rfl
@[simp] theorem State.cancelled_dt : (s.cancelled).dt = s.dt := rfl
@[simp] theorem State.cancelled_st : (s.cancelled).st = s.st := rfl
@[simp] theorem State.cancelled_mode : (s.cancelled).mode = .stopped := rfl
@[simp] theorem State.cancelled_kwPrev : (s.cancelled).kwPrev = s.kwPrev := rfl
@[simp] theorem State.cancelled_err : (s.cancelled).err = s.err := rfl
@[simp] theorem State.cancelled_fb : (s.cancelled).fb = s.fb := rfl
@[simp] theorem State.cancelled_mem : (s.cancelled).mem = s.mem := rfl
@[simp] theorem State.cancelled_presented : (s.cancelled).presented = s.presented := rfl
@[simp] theorem State.cancelled_events : (s.cancelled).events = s.events := rfl
@[simp] theorem State.cancelled_keysIn : (s.cancelled).keysIn = s.keysIn := rfl
@[simp] theorem State.cancelled_randIn : (s.cancelled).randIn = s.randIn := rfl
@[simp] theorem State.cancelled_presentIn : (s.cancelled).presentIn = s.presentIn := rfl
@[simp] theorem State.cancelled_draws : (s.cancelled).draws = s.draws := rfl
@[simp] theorem State.cancelled_reg (q : RegIx) : (s.cancelled).reg q = s.reg q := rfl

end cancelled

section raiseAt

variable (s : State) (k : ErrorKind) (w : Word) (n : ErrorInfo)

@[simp] theorem State.raiseAt_v : (s.raiseAt k w n).v = s.v := rfl
@[simp] theorem State.raiseAt_pc : (s.raiseAt k w n).pc = s.pc := rfl
@[simp] theorem State.raiseAt_i : (s.raiseAt k w n).i = s.i := rfl
@[simp] theorem State.raiseAt_stack : (s.raiseAt k w n).stack = s.stack := rfl
@[simp] theorem State.raiseAt_dt : (s.raiseAt k w n).dt = s.dt := rfl
@[simp] theorem State.raiseAt_st : (s.raiseAt k w n).st = s.st := rfl
@[simp] theorem State.raiseAt_mode : (s.raiseAt k w n).mode = .halted k := rfl
@[simp] theorem State.raiseAt_kwPrev : (s.raiseAt k w n).kwPrev = s.kwPrev := rfl
@[simp] theorem State.raiseAt_err : (s.raiseAt k w n).err = some { kind := k, code := k.code, pc := some s.pc, word := some w, info := n } := rfl
@[simp] theorem State.raiseAt_fb : (s.raiseAt k w n).fb = s.fb := rfl
@[simp] theorem State.raiseAt_mem : (s.raiseAt k w n).mem = s.mem := rfl
@[simp] theorem State.raiseAt_presented : (s.raiseAt k w n).presented = s.presented := rfl
@[simp] theorem State.raiseAt_events : (s.raiseAt k w n).events = s.events := rfl
@[simp] theorem State.raiseAt_keysIn : (s.raiseAt k w n).keysIn = s.keysIn := rfl
@[simp] theorem State.raiseAt_randIn : (s.raiseAt k w n).randIn = s.randIn := rfl
@[simp] theorem State.raiseAt_presentIn : (s.raiseAt k w n).presentIn = s.presentIn := rfl
@[simp] theorem State.raiseAt_draws : (s.raiseAt k w n).draws = s.draws := rfl
@[simp] theorem State.raiseAt_reg (q : RegIx) : (s.raiseAt k w n).reg q = s.reg q := rfl

end raiseAt

section skipIf

variable (s : State) (c : Bool)

@[simp] theorem State.skipIf_v : (s.skipIf c).v = s.v := by cases c <;> rfl
@[simp] theorem State.skipIf_i : (s.skipIf c).i = s.i := by cases c <;> rfl
@[simp] theorem State.skipIf_stack : (s.skipIf c).stack = s.stack := by cases c <;> rfl
@[simp] theorem State.skipIf_dt : (s.skipIf c).dt = s.dt := by cases c <;> rfl
@[simp] theorem State.skipIf_st : (s.skipIf c).st = s.st := by cases c <;> rfl
@[simp] theorem State.skipIf_mode : (s.skipIf c).mode = s.mode := by cases c <;> rfl
@[simp] theorem State.skipIf_kwPrev : (s.skipIf c).kwPrev = s.kwPrev := by cases c <;> rfl
@[simp] theorem State.skipIf_err : (s.skipIf c).err = s.err := by cases c <;> rfl
@[simp] theorem State.skipIf_fb : (s.skipIf c).fb = s.fb := by cases c <;> rfl
@[simp] theorem State.skipIf_mem : (s.skipIf c).mem = s.mem := by cases c <;> rfl
@[simp] theorem State.skipIf_presented : (s.skipIf c).presented = s.presented := by cases c <;> rfl
@[simp] theorem State.skipIf_events : (s.skipIf c).events = s.events := by cases c <;> rfl
@[simp] theorem State.skipIf_keysIn : (s.skipIf c).keysIn = s.keysIn := by cases c <;> rfl
@[simp] theorem State.skipIf_randIn : (s.skipIf c).randIn = s.randIn := by cases c <;> rfl
@[simp] theorem State.skipIf_presentIn : (s.skipIf c).presentIn = s.presentIn := by cases c <;> rfl
@[simp] theorem State.skipIf_draws : (s.skipIf c).draws = s.draws := by cases c <;> rfl
@[simp] theorem State.skipIf_reg (q : RegIx) : (s.skipIf c).reg q = s.reg q := by cases c <;> rfl
theorem State.skipIf_pc : (s.skipIf c).pc = if c then s.skip.pc else s.pc := by cases c <;> rfl

end skipIf

section sampleKeys

variable (s : State)

@[simp] theorem State.sampleKeys_v : s.sampleKeys.2.v = s.v := by unfold State.sampleKeys; split <;> rfl
@[simp] theorem State.sampleKeys_pc : s.sampleKeys.2.pc = s.pc := by unfold State.sampleKeys; split <;> rfl
@[simp] theorem State.sampleKeys_i : s.sampleKeys.2.i = s.i := by unfold State.sampleKeys; split <;> rfl
@[simp] theorem State.sampleKeys_stack : s.sampleKeys.2.stack = s.stack := by unfold State.sampleKeys; split <;> rfl
@[simp] theorem State.sampleKeys_dt : s.sampleKeys.2.dt = s.dt := by unfold State.sampleKeys; split <;> rfl
@[simp] theorem State.sampleKeys_st : s.sampleKeys.2.st = s.st := by unfold State.sampleKeys; split <;> rfl
@[simp] theorem State.sampleKeys_mode : s.sampleKeys.2.mode = s.mode := by unfold State.sampleKeys; split <;> rfl
@[simp] theorem State.sampleKeys_kwPrev : s.sampleKeys.2.kwPrev = s.kwPrev := by unfold State.sampleKeys; split <;> rfl
@[simp] theorem State.sampleKeys_err : s.sampleKeys.2.err = s.err := by unfold State.sampleKeys; split <;> rfl
@[simp] theorem State.sampleKeys_fb : s.sampleKeys.2.fb = s.fb := by unfold State.sampleKeys; split <;> rfl
@[simp] theorem State.sampleKeys_mem : s.sampleKeys.2.mem = s.mem := by unfold State.sampleKeys; split <;> rfl
@[simp] theorem State.sampleKeys_presented : s.sampleKeys.2.presented = s.presented := by unfold State.sampleKeys; split <;> rfl
@[simp] theorem State.sampleKeys_events : s.sampleKeys.2.events = s.events := by unfold State.sampleKeys; split <;> rfl
@[simp] theorem State.sampleKeys_randIn : s.sampleKeys.2.randIn = s.randIn := by unfold State.sampleKeys; split <;> rfl
@[simp] theorem State.sampleKeys_presentIn : s.sampleKeys.2.presentIn = s.presentIn := by unfold State.sampleKeys; split <;> rfl
@[simp] theorem State.sampleKeys_reg (q : RegIx) : s.sampleKeys.2.reg q = s.reg q := by unfold State.sampleKeys; split <;> rfl
/-- A query takes its answer off the list. -/
@[simp] theorem State.sampleKeys_keysIn : s.sampleKeys.2.keysIn = s.keysIn.tail := by
  unfold State.sampleKeys; split <;> simp_all

end sampleKeys

section drawRandom

variable (s : State)

@[simp] theorem State.drawRandom_v : s.drawRandom.2.v = s.v := by unfold State.drawRandom; split <;> rfl
@[simp] theorem State.drawRandom_pc : s.drawRandom.2.pc = s.pc := by unfold State.drawRandom; split <;> rfl
@[simp] theorem State.drawRandom_i : s.drawRandom.2.i = s.i := by unfold State.drawRandom; split <;> rfl
@[simp] theorem State.drawRandom_stack : s.drawRandom.2.stack = s.stack := by unfold State.drawRandom; split <;> rfl
@[simp] theorem State.drawRandom_dt : s.drawRandom.2.dt = s.dt := by unfold State.drawRandom; split <;> rfl
@[simp] theorem State.drawRandom_st : s.drawRandom.2.st = s.st := by unfold State.drawRandom; split <;> rfl
@[simp] theorem State.drawRandom_mode : s.drawRandom.2.mode = s.mode := by unfold State.drawRandom; split <;> rfl
@[simp] theorem State.drawRandom_kwPrev : s.drawRandom.2.kwPrev = s.kwPrev := by unfold State.drawRandom; split <;> rfl
@[simp] theorem State.drawRandom_err : s.drawRandom.2.err = s.err := by unfold State.drawRandom; split <;> rfl
@[simp] theorem State.drawRandom_fb : s.drawRandom.2.fb = s.fb := by unfold State.drawRandom; split <;> rfl
@[simp] theorem State.drawRandom_mem : s.drawRandom.2.mem = s.mem := by unfold State.drawRandom; split <;> rfl
@[simp] theorem State.drawRandom_presented : s.drawRandom.2.presented = s.presented := by unfold State.drawRandom; split <;> rfl
@[simp] theorem State.drawRandom_events : s.drawRandom.2.events = s.events := by unfold State.drawRandom; split <;> rfl
@[simp] theorem State.drawRandom_keysIn : s.drawRandom.2.keysIn = s.keysIn := by unfold State.drawRandom; split <;> rfl
@[simp] theorem State.drawRandom_presentIn : s.drawRandom.2.presentIn = s.presentIn := by unfold State.drawRandom; split <;> rfl
@[simp] theorem State.drawRandom_reg (q : RegIx) : s.drawRandom.2.reg q = s.reg q := by unfold State.drawRandom; split <;> rfl
/-- A query takes its answer off the list. -/
@[simp] theorem State.drawRandom_randIn : s.drawRandom.2.randIn = s.randIn.tail := by
  unfold State.drawRandom; split <;> simp_all

end drawRandom

section askRenderer

variable (s : State)

@[simp] theorem State.askRenderer_v : s.askRenderer.2.v = s.v := by unfold State.askRenderer; split <;> rfl
@[simp] theorem State.askRenderer_pc : s.askRenderer.2.pc = s.pc := by unfold State.askRenderer; split <;> rfl
@[simp] theorem State.askRenderer_i : s.askRenderer.2.i = s.i := by unfold State.askRenderer; split <;> rfl
@[simp] theorem State.askRenderer_stack : s.askRenderer.2.stack = s.stack := by unfold State.askRenderer; split <;> rfl
@[simp] theorem State.askRenderer_dt : s.askRenderer.2.dt = s.dt := by unfold State.askRenderer; split <;> rfl
@[simp] theorem State.askRenderer_st : s.askRenderer.2.st = s.st := by unfold State.askRenderer; split <;> rfl
@[simp] theorem State.askRenderer_mode : s.askRenderer.2.mode = s.mode := by unfold State.askRenderer; split <;> rfl
@[simp] theorem State.askRenderer_kwPrev : s.askRenderer.2.kwPrev = s.kwPrev := by unfold State.askRenderer; split <;> rfl
@[simp] theorem State.askRenderer_err : s.askRenderer.2.err = s.err := by unfold State.askRenderer; split <;> rfl
@[simp] theorem State.askRenderer_fb : s.askRenderer.2.fb = s.fb := by unfold State.askRenderer; split <;> rfl
@[simp] theorem State.askRenderer_mem : s.askRenderer.2.mem = s.mem := by unfold State.askRenderer; split <;> rfl
@[simp] theorem State.askRenderer_presented : s.askRenderer.2.presented = s.presented := by unfold State.askRenderer; split <;> rfl
@[simp] theorem State.askRenderer_events : s.askRenderer.2.events = s.events := by unfold State.askRenderer; split <;> rfl
@[simp] theorem State.askRenderer_keysIn : s.askRenderer.2.keysIn = s.keysIn := by unfold State.askRenderer; split <;> rfl
@[simp] theorem State.askRenderer_randIn : s.askRenderer.2.randIn = s.randIn := by unfold State.askRenderer; split <;> rfl
@[simp] theorem State.askRenderer_reg (q : RegIx) : s.askRenderer.2.reg q = s.reg q := by unfold State.askRenderer; split <;> rfl
/-- A query takes its answer off the list. -/
@[simp] theorem State.askRenderer_presentIn : s.askRenderer.2.presentIn = s.presentIn.tail := by
  unfold State.askRenderer; split <;> simp_all

end askRenderer

/-- Reading a register after a write of one. -/
theorem State.reg_setReg (s : State) (r q : RegIx) (b : Byte) :
    (s.setReg r b).reg q = if q = r then b else s.reg q := by
  simp only [State.reg, State.setReg, Vector.getElem_set, BitVec.toNat_inj, eq_comm]

@[simp] theorem State.reg_setReg_self (s : State) (r : RegIx) (b : Byte) : (s.setReg r b).reg r = b := by
  simp [State.reg_setReg]

theorem State.reg_setReg_ne (s : State) {r q : RegIx} (b : Byte) (h : q ≠ r) : (s.setReg r b).reg q = s.reg q := by
  simp [State.reg_setReg, h]

/-- Reading a register after a result and a flag: VF holds the flag, whatever the destination. -/
theorem State.reg_setRegFlag (s : State) (x q : RegIx) (b : Byte) (c : Bool) :
    (s.setRegFlag x b c).reg q = if q = vfIx then flagByte c else if q = x then b else s.reg q := by
  simp [State.setRegFlag, State.reg_setReg]

/-- Reading a register after a block load: the loaded byte below the block's length. -/
theorem State.reg_setRegBlock (s : State) (bs : List Byte) (q : RegIx) :
    (s.setRegBlock bs).reg q = bs.getD q.toNat (s.reg q) := by
  simp [State.reg, State.setRegBlock]

/-- The registers are determined by their reads. -/
theorem State.v_ext {s t : State} (h : ∀ r, t.reg r = s.reg r) : t.v = s.v := by
  apply Vector.ext
  intro k hk
  have := h (BitVec.ofNat 4 k)
  simpa [State.reg, Nat.mod_eq_of_lt hk] using this

/-- PC after a write of it (10_state.md R23). -/
@[simp] theorem State.setPc_toNat (s : State) (n : Nat) : (s.setPc n).pc.toNat = n % Config.memSize := by
  simp only [State.setPc_pc, BitVec.toNat_ofNat]
  have := Nat.mod_lt n (show 0 < Config.memSize by decide)
  exact Nat.mod_eq_of_lt (by simp only [Config.memSize] at *; omega)

/-- PC after the advance of the fetch (40_step.md R124). -/
@[simp] theorem State.advance_pc_toNat (s : State) : s.advance.pc.toNat = (s.pc.toNat + 2) % Config.memSize :=
  s.setPc_toNat _

/-- PC after a skip (41_control_flow.md R150). -/
@[simp] theorem State.skip_pc_toNat (s : State) : s.skip.pc.toNat = (s.pc.toNat + 2) % Config.memSize :=
  s.setPc_toNat _

/-- PC after the advance and a skip (41_control_flow.md R150). -/
theorem State.advance_skip_pc_toNat (s : State) : s.advance.skip.pc.toNat = (s.pc.toNat + 4) % Config.memSize := by
  rw [State.skip, State.setPc_toNat, State.advance_pc_toNat, Nat.mod_add_mod]

end Sys2Proof.Machine
end

