-- ==== Sys2Proof/Laws/Memory.lean ====
section
/-! SUPPORT. The laws of memory: reads after writes, the canonical form and its uniqueness, and what the block
operations do. -/

namespace Sys2Proof.Machine

/-! ### The reset contents -/

theorem inFont_iff {a : Nat} : inFont a = true ↔ Config.fontBase ≤ a ∧ a < Config.fontBase + Config.fontSize := by
  simp [inFont]

/-- An unlisted byte of the font region is a glyph byte (44_display.md R258). -/
theorem Memory.unlisted_font {a : Nat} (h : inFont a = true) :
    Memory.unlisted a = Config.fontData.getD (a - Config.fontBase) 0 := by
  unfold Memory.unlisted; rw [h]; rfl

/-- An unlisted byte outside the font region is free memory (20_memory.md R69). -/
theorem Memory.unlisted_free {a : Nat} (h : inFont a = false) : Memory.unlisted a = Config.freeByte := by
  unfold Memory.unlisted; rw [h]; rfl

/-! ### Reads after writes -/

@[simp] theorem Memory.read_nil (a : Nat) : Memory.read [] a = Memory.unlisted (a % Config.memSize) := rfl

@[simp] theorem Memory.read_mod (m : Memory) (a : Nat) : m.read (a % Config.memSize) = m.read a := by
  simp [Memory.read]

theorem Memory.lookup_insert (m : Memory) (a q : Nat) (b : Byte) :
    (m.insert a b).lookup q = if q = a then b else m.lookup q := by
  induction m with
  | nil => simp [Memory.insert, Memory.lookup]
  | cons e m ih =>
    obtain ⟨k, c⟩ := e
    simp only [Memory.insert]
    split
    · simp [Memory.lookup]
    · split
      · next h => subst h; simp only [Memory.lookup]; split <;> rfl
      · simp only [Memory.lookup, ih]
        split <;> split <;> simp_all

theorem Memory.lookup_erase (m : Memory) (a q : Nat) :
    (m.erase a).lookup q = if q = a then Memory.unlisted a else m.lookup q := by
  induction m with
  | nil => simp only [Memory.erase, Memory.lookup]; split <;> simp_all
  | cons e m ih =>
    obtain ⟨k, c⟩ := e
    simp only [Memory.erase]
    split
    · next h => subst h; rw [ih]; simp only [Memory.lookup]; split <;> rfl
    · simp only [Memory.lookup, ih]
      split <;> split <;> simp_all

/-- A read after a write: the value written at that byte, what it was before at any other (20_memory.md R73). -/
theorem Memory.read_write (m : Memory) (a q : Nat) (v : Byte) :
    (m.write a v).read q = if q % Config.memSize = a % Config.memSize then v else m.read q := by
  unfold Memory.write Memory.read
  split
  · next h => rw [Memory.lookup_erase, h]
  · rw [Memory.lookup_insert]

theorem Memory.read_write_same (m : Memory) (a : Nat) (v : Byte) : (m.write a v).read a = v := by
  simp [Memory.read_write]

theorem Memory.read_write_other (m : Memory) {a q : Nat} (v : Byte)
    (h : q % Config.memSize ≠ a % Config.memSize) : (m.write a v).read q = m.read q := by
  simp [Memory.read_write, h]

/-! ### The canonical form -/

theorem Memory.wfFrom_mono {lo lo' : Nat} {m : Memory} (hle : lo' ≤ lo) (h : Memory.wfFrom lo m = true) :
    Memory.wfFrom lo' m = true := by
  cases m with
  | nil => rfl
  | cons e m =>
    obtain ⟨k, b⟩ := e
    simp only [Memory.wfFrom, Bool.and_eq_true, decide_eq_true_eq] at h ⊢
    exact ⟨⟨⟨by omega, h.1.1.2⟩, h.1.2⟩, h.2⟩

theorem Memory.wfFrom_insert {m : Memory} {lo a : Nat} {b : Byte} (h : Memory.wfFrom lo m = true) (hlo : lo ≤ a)
    (ha : a < Config.memSize) (hb : b ≠ Memory.unlisted a) : Memory.wfFrom lo (m.insert a b) = true := by
  induction m generalizing lo with
  | nil => simp [Memory.insert, Memory.wfFrom, hlo, ha, hb]
  | cons e m ih =>
    obtain ⟨k, c⟩ := e
    simp only [Memory.wfFrom, Bool.and_eq_true, decide_eq_true_eq] at h
    simp only [Memory.insert]
    split
    · simp only [Memory.wfFrom, Bool.and_eq_true, decide_eq_true_eq]
      exact ⟨⟨⟨hlo, ha⟩, hb⟩, ⟨⟨by omega, h.1.1.2⟩, h.1.2⟩, h.2⟩
    · split
      · next hk =>
        subst hk
        simp only [Memory.wfFrom, Bool.and_eq_true, decide_eq_true_eq]
        exact ⟨⟨⟨hlo, ha⟩, hb⟩, h.2⟩
      · simp only [Memory.wfFrom, Bool.and_eq_true, decide_eq_true_eq]
        exact ⟨h.1, ih h.2 (by omega)⟩

theorem Memory.wfFrom_erase {m : Memory} {lo : Nat} (a : Nat) (h : Memory.wfFrom lo m = true) :
    Memory.wfFrom lo (m.erase a) = true := by
  induction m generalizing lo with
  | nil => rfl
  | cons e m ih =>
    obtain ⟨k, c⟩ := e
    simp only [Memory.wfFrom, Bool.and_eq_true, decide_eq_true_eq] at h
    simp only [Memory.erase]
    split
    · exact Memory.wfFrom_mono (by omega) (ih h.2)
    · simp only [Memory.wfFrom, Bool.and_eq_true, decide_eq_true_eq]
      exact ⟨h.1, ih h.2⟩

/-- A write keeps the canonical form. -/
theorem Memory.wf_write {m : Memory} (a : Nat) (v : Byte) (h : m.wf = true) : (m.write a v).wf = true := by
  unfold Memory.wf Memory.write at *
  split
  · exact Memory.wfFrom_erase _ h
  · next hv => exact Memory.wfFrom_insert h (Nat.zero_le _) (Nat.mod_lt _ (by decide)) hv

theorem Memory.wf_writeBytes {m : Memory} (a : Nat) (bs : List Byte) (h : m.wf = true) :
    (m.writeBytes a bs).wf = true := by
  induction bs generalizing m a with
  | nil => exact h
  | cons b bs ih => exact ih _ (Memory.wf_write _ _ h)

theorem Memory.wf_writeOutsideFont {m : Memory} (a : Nat) (bs : List Byte) (h : m.wf = true) :
    (m.writeOutsideFont a bs).wf = true := by
  induction bs generalizing m a with
  | nil => exact h
  | cons b bs ih =>
    apply ih
    split
    · exact h
    · exact Memory.wf_write _ _ h

/-- A block store keeps the canonical form, under every value of FONT_WRITE. -/
theorem Memory.wf_storeBlock {p : Config.FontWrite} {a : Nat} {bs : List Byte} {m m' : Memory}
    (hs : Memory.storeBlock p a bs m = .ok m') (h : m.wf = true) : m'.wf = true := by
  cases p with
  | fault =>
    simp only [Memory.storeBlock] at hs
    split at hs
    · cases hs
    · cases hs; exact Memory.wf_writeBytes _ _ h
  | store => cases hs; exact Memory.wf_writeBytes _ _ h
  | ignore => cases hs; exact Memory.wf_writeOutsideFont _ _ h

theorem Memory.wf_reset : State.reset.mem.wf = true := rfl

theorem Memory.lookup_below {m : Memory} {lo q : Nat} (h : Memory.wfFrom lo m = true) (hq : q < lo) :
    m.lookup q = Memory.unlisted q := by
  induction m generalizing lo with
  | nil => rfl
  | cons e m ih =>
    obtain ⟨k, c⟩ := e
    simp only [Memory.wfFrom, Bool.and_eq_true, decide_eq_true_eq] at h
    simp only [Memory.lookup]
    rw [if_neg (by omega)]
    exact ih h.2 (by omega)

theorem Memory.ext_wfFrom {m m' : Memory} {lo : Nat} (h : Memory.wfFrom lo m = true) (h' : Memory.wfFrom lo m' = true)
    (he : ∀ q, q < Config.memSize → m.lookup q = m'.lookup q) : m = m' := by
  induction m generalizing m' lo with
  | nil =>
    cases m' with
    | nil => rfl
    | cons e m' =>
      obtain ⟨k, c⟩ := e
      simp only [Memory.wfFrom, Bool.and_eq_true, decide_eq_true_eq] at h'
      have := he k h'.1.1.2
      simp only [Memory.lookup, if_true] at this
      exact absurd this.symm h'.1.2
  | cons e m ih =>
    obtain ⟨k, c⟩ := e
    simp only [Memory.wfFrom, Bool.and_eq_true, decide_eq_true_eq] at h
    cases m' with
    | nil =>
      have := he k h.1.1.2
      simp only [Memory.lookup, if_true] at this
      exact absurd this h.1.2
    | cons e' m' =>
      obtain ⟨k', c'⟩ := e'
      simp only [Memory.wfFrom, Bool.and_eq_true, decide_eq_true_eq] at h'
      rcases Nat.lt_trichotomy k k' with hlt | heq | hgt
      · have := he k h.1.1.2
        simp only [Memory.lookup, if_true, if_neg (Nat.ne_of_lt hlt)] at this
        rw [Memory.lookup_below h'.2 (by omega)] at this
        exact absurd this h.1.2
      · subst heq
        have hc := he k h.1.1.2
        simp only [Memory.lookup, if_true] at hc
        subst hc
        congr 1
        refine ih h.2 h'.2 fun q hq => ?_
        have := he q hq
        simp only [Memory.lookup] at this
        by_cases hqk : q = k
        · subst hqk
          rw [Memory.lookup_below h.2 (by omega), Memory.lookup_below h'.2 (by omega)]
        · simpa [hqk] using this
      · have := he k' h'.1.1.2
        simp only [Memory.lookup, if_true, if_neg (Nat.ne_of_lt hgt)] at this
        rw [Memory.lookup_below h.2 (by omega)] at this
        exact absurd this.symm h'.1.2

/-- The canonical form is unique: two memories in it that read the same are the same list. -/
theorem Memory.ext_of_read {m m' : Memory} (h : m.wf = true) (h' : m'.wf = true)
    (he : ∀ a, m.read a = m'.read a) : m = m' := by
  refine Memory.ext_wfFrom h h' fun q hq => ?_
  have := he q
  simpa [Memory.read, Nat.mod_eq_of_lt hq] using this

/-! ### Blocks -/

/-- A block write leaves every byte outside its targets alone. -/
theorem Memory.read_writeBytes_other (m : Memory) (a q : Nat) (bs : List Byte)
    (h : ∀ k, k < bs.length → q % Config.memSize ≠ (a + k) % Config.memSize) :
    (m.writeBytes a bs).read q = m.read q := by
  induction bs generalizing m a with
  | nil => rfl
  | cons b bs ih =>
    simp only [Memory.writeBytes]
    rw [ih]
    · exact Memory.read_write_other _ _ (by simpa using h 0 (by simp))
    · intro k hk
      have := h (k + 1) (by simpa using hk)
      rwa [Nat.add_comm k 1, ← Nat.add_assoc] at this

/-- A block write, of at most MEM_SIZE bytes, puts each byte at its address. -/
theorem Memory.read_writeBytes_at (m : Memory) (a k : Nat) (bs : List Byte) (hk : k < bs.length)
    (hlen : bs.length ≤ Config.memSize) : (m.writeBytes a bs).read (a + k) = bs[k] := by
  induction bs generalizing m a k with
  | nil => simp at hk
  | cons b bs ih =>
    simp only [Memory.writeBytes]
    simp only [List.length_cons] at hk hlen
    cases k with
    | zero =>
      rw [Memory.read_writeBytes_other]
      · simp [Memory.read_write]
      · intro j hj
        simp only [Config.memSize, Nat.add_zero] at *
        omega
    | succ k =>
      have := ih (m.write a b) (a + 1) k (by omega) (by omega)
      rw [Nat.add_right_comm] at this
      simpa [Nat.add_assoc] using this

/-- No target of a block lies in the font region exactly when there is no offending target. -/
theorem fontTarget_eq_none {a n : Nat} :
    fontTarget a n = none ↔ ∀ k, k < n → inFont ((a + k) % Config.memSize) = false := by
  simp [fontTarget]

/-- The offending target is one of the block's, in the font region, and the first such. -/
theorem fontTarget_eq_some {a n t : Nat} (h : fontTarget a n = some t) :
    ∃ k, k < n ∧ t = (a + k) % Config.memSize ∧ inFont t = true ∧
      ∀ j, j < k → inFont ((a + j) % Config.memSize) = false := by
  unfold fontTarget at h
  rw [List.find?_map] at h
  simp only [Option.map_eq_some_iff] at h
  obtain ⟨k, hk, rfl⟩ := h
  rw [List.find?_range_eq_some] at hk
  exact ⟨k, by simpa using hk.2.1, rfl, by simpa using hk.1, fun j hj => by simpa using hk.2.2 j hj⟩

/-- A block store under `fault` that goes through writes every byte, and none of its targets is in the font region. -/
theorem Memory.storeBlock_fault_ok {a : Nat} {bs : List Byte} {m m' : Memory}
    (h : Memory.storeBlock .fault a bs m = .ok m') :
    m' = m.writeBytes a bs ∧ ∀ k, k < bs.length → inFont ((a + k) % Config.memSize) = false := by
  simp only [Memory.storeBlock] at h
  split at h
  · cases h
  · next hn => cases h; exact ⟨rfl, fontTarget_eq_none.1 hn⟩

/-- A block store with no target in the font region goes through. -/
theorem Memory.storeBlock_fault_of_clear {a : Nat} {bs : List Byte} (m : Memory)
    (h : ∀ k, k < bs.length → inFont ((a + k) % Config.memSize) = false) :
    Memory.storeBlock .fault a bs m = .ok (m.writeBytes a bs) := by
  simp only [Memory.storeBlock, fontTarget_eq_none.2 h]

/-- A block store that hits the font region is refused with the offending address. -/
theorem Memory.storeBlock_fault_error {a t : Nat} {bs : List Byte} {m : Memory}
    (h : Memory.storeBlock .fault a bs m = .error t) : fontTarget a bs.length = some t := by
  simp only [Memory.storeBlock] at h
  split at h
  · next ht => cases h; exact ht
  · cases h

end Sys2Proof.Machine
end

