-- ==== Sys2Proof/Laws/Ops.lean ====
section
/-! SUPPORT. What the shared operations can do, said once each: the queries of the ports, the meanings that may raise an
error, the framebuffer, the key wait, the transitions. -/

namespace Sys2Proof.Machine

/-! ### Small operations -/

@[simp] theorem flagByte_toNat (c : Bool) : (flagByte c).toNat = if c then 1 else 0 := by cases c <;> rfl

@[simp] theorem addrWord_toNat (nnn : Addr12) : (addrWord nnn).toNat = nnn.toNat := by
  have := nnn.isLt
  simp only [addrWord, BitVec.toNat_setWidth]
  omega

/-- A 12-bit address is below MEM_SIZE. -/
theorem addr_lt (nnn : Addr12) : nnn.toNat < Config.memSize := nnn.isLt

theorem glyphAddr_toNat (b : Byte) : (glyphAddr b).toNat = Config.fontBase + Config.glyphBytes * b.toNat := by
  have := b.isLt
  simp only [glyphAddr, BitVec.toNat_ofNat, Config.fontBase, Config.glyphBytes]
  omega

@[simp] theorem State.loadBlock_length (s : State) (n : Nat) : (s.loadBlock n).length = n := by
  simp [State.loadBlock]

/-- Byte k of a block is the byte at I + k. -/
theorem State.loadBlock_getElem (s : State) (n k : Nat) (h : k < (s.loadBlock n).length) :
    (s.loadBlock n)[k] = s.mem.read (s.i.toNat + k) := by
  simp [State.loadBlock, State.effAddr]

@[simp] theorem State.regBlock_length (s : State) (x : RegIx) : (s.regBlock x).length = x.toNat + 1 := by
  have := x.isLt
  simp only [State.regBlock, List.length_take, Vector.length_toList]
  omega

/-- Byte k of the block V0..Vx is Vk. -/
theorem State.regBlock_getElem (s : State) (x : RegIx) (k : Nat) (h : k < (s.regBlock x).length) :
    (s.regBlock x)[k] = s.reg (BitVec.ofNat 4 k) := by
  have := x.isLt
  rw [State.regBlock_length] at h
  simp [State.regBlock, State.reg, Nat.mod_eq_of_lt (show k < 16 by omega)]

@[simp] theorem bcdDigits_length (b : Byte) : (bcdDigits b).length = 3 := rfl

@[simp] theorem keyInRange_iff (k : Byte) : keyInRange k = true ↔ k.toNat ≤ 0xF := by simp [keyInRange]

/-- The least key of a sample: a set bit with no set bit below it. -/
theorem leastKey_eq_some {K : Word} {k : Nat} :
    leastKey K = some k ↔ k < Config.nKeys ∧ K.getLsbD k = true ∧ ∀ j, j < k → K.getLsbD j = false := by
  unfold leastKey
  rw [List.find?_range_eq_some]
  constructor
  · rintro ⟨hk, hm, hl⟩
    exact ⟨by simpa using hm, hk, fun j hj => by simpa using hl j hj⟩
  · rintro ⟨hm, hk, hl⟩
    exact ⟨hk, by simpa using hm, fun j hj => by simpa using hl j hj⟩

/-- No key of a sample is down exactly when there is no least one. -/
theorem leastKey_eq_none {K : Word} : leastKey K = none ↔ ∀ k, k < Config.nKeys → K.getLsbD k = false := by
  simp [leastKey]

/-- The keys that end the wait, one by one (45_timers_input.md R287, under `edge`). -/
theorem newKeys_getLsbD (K prev : Word) {k : Nat} (h : k < 16) :
    (newKeys Config.keywaitTrigger K prev).getLsbD k = (K.getLsbD k && !prev.getLsbD k) := by
  simp [newKeys, Config.keywaitTrigger, h]

/-- The address of the Fx0A under way, as a number. -/
theorem waitAddr_toNat (s : State) : (waitAddr s).toNat = (s.pc.toNat + Config.memSize - 2) % Config.memSize := by
  simp only [waitAddr, BitVec.toNat_ofNat, Config.memSize]
  omega

/-- A tick's decrement, as a number (60_exceptions.md R323). -/
@[simp] theorem tickDown_toNat (b : Byte) : (tickDown b).toNat = b.toNat - 1 := by
  have := b.isLt
  unfold tickDown
  split
  · rw [BitVec.toNat_sub]; simp; omega
  · simp; omega

/-! ### The queries of the ports: the head of the list, or a free answer -/

theorem State.sampleKeys_listed {s : State} {a : Answer Word} {as : List (Answer Word)} (h : s.keysIn = a :: as) :
    s.sampleKeys = (a, { s with keysIn := as }) := by
  unfold State.sampleKeys; rw [h]

theorem State.sampleKeys_free {s : State} (h : s.keysIn = []) :
    s.sampleKeys = (Config.freeKeys s.draws, { s with draws := s.draws + 1 }) := by
  unfold State.sampleKeys; rw [h]

theorem State.drawRandom_listed {s : State} {a : Answer Byte} {as : List (Answer Byte)} (h : s.randIn = a :: as) :
    s.drawRandom = (a, { s with randIn := as }) := by
  unfold State.drawRandom; rw [h]

theorem State.drawRandom_free {s : State} (h : s.randIn = []) :
    s.drawRandom = (Config.freeRandom s.draws, { s with draws := s.draws + 1 }) := by
  unfold State.drawRandom; rw [h]

theorem State.askRenderer_listed {s : State} {a : Answer Unit} {as : List (Answer Unit)} (h : s.presentIn = a :: as) :
    s.askRenderer = (a, { s with presentIn := as }) := by
  unfold State.askRenderer; rw [h]

theorem State.askRenderer_free {s : State} (h : s.presentIn = []) :
    s.askRenderer = (Config.freePresent s.draws, { s with draws := s.draws + 1 }) := by
  unfold State.askRenderer; rw [h]

/-- The answer of a query depends on the port's list and the counter alone. -/
theorem State.sampleKeys_congr {s t : State} (hk : t.keysIn = s.keysIn) (hd : t.draws = s.draws) :
    t.sampleKeys.1 = s.sampleKeys.1 := by
  unfold State.sampleKeys; rw [hk, hd]; split <;> rfl

theorem State.drawRandom_congr {s t : State} (hr : t.randIn = s.randIn) (hd : t.draws = s.draws) :
    t.drawRandom.1 = s.drawRandom.1 := by
  unfold State.drawRandom; rw [hr, hd]; split <;> rfl

theorem State.askRenderer_congr {s t : State} (hp : t.presentIn = s.presentIn) (hd : t.draws = s.draws) :
    t.askRenderer.1 = s.askRenderer.1 := by
  unfold State.askRenderer; rw [hp, hd]; split <;> rfl

/-! ### The meanings that may raise an error: they always answer a next state -/

theorem execRet_eq (s : State) : execRet s = .next
    (match s.top with
      | none => s.raiseAt .stackUnderflow (encode .ret) .none
      | some t => s.advance.dropTop.setPc t.toNat) := by
  unfold execRet; split <;> simp_all

theorem execCall_eq (nnn : Addr12) (s : State) : execCall nnn s = .next
    (if Config.stackDepth ≤ s.stack.length then s.raiseAt .stackOverflow (encode (.call nnn)) .none
      else (s.advance.push s.advance.pc).setPc (addrWord nnn).toNat) := by
  unfold execCall; split <;> rfl

theorem execRnd_eq (x : RegIx) (nn : Byte) (s : State) : execRnd x nn s = .next
    (match s.drawRandom.1 with
      | .failure => s.drawRandom.2.raiseAt .capabilityError (encode (.rnd x nn)) (.collaborator .random)
      | .value r => s.drawRandom.2.advance.setReg x (r &&& nn)) := rfl

theorem storeAtI_eq (ins : Instr) (bs : List Byte) (s : State) : storeAtI ins bs s = .next
    (match Memory.storeBlock Config.fontWrite (s.effAddr 0) bs s.mem with
      | .error t => s.raiseAt .fontWrite (encode ins) (.address (BitVec.ofNat 16 t))
      | .ok m => s.advance.setMem m) := by
  unfold storeAtI; split <;> simp_all

theorem execDrw_eq (x y : RegIx) (n : Nibble) (s : State) : execDrw x y n s = .next
    (match s.askRenderer.1 with
      | .failure => s.askRenderer.2.raiseAt .capabilityError (encode (.drw x y n)) (.collaborator .renderer)
      | .value _ =>
        ((s.askRenderer.2.advance.setFb (blit (s.reg x).toNat (s.reg y).toNat (s.loadBlock n.toNat) s.fb).1).setReg
          vfIx (flagByte (blit (s.reg x).toNat (s.reg y).toNat (s.loadBlock n.toNat) s.fb).2)).emitPresent) := rfl

theorem keySkip_eq (ins : Instr) (k : Byte) (d : Bool) (s : State) : keySkip ins k d s = .next
    (if keyInRange k then
      match s.sampleKeys.1 with
      | .failure => s.sampleKeys.2.raiseAt .capabilityError (encode ins) (.collaborator .input)
      | .value K => s.sampleKeys.2.advance.skipIf (keyDown K k == d)
    else s.raiseAt .keyIndexRange (encode ins) (.key k)) := rfl

theorem execLdVK_eq (x : RegIx) (s : State) : execLdVK x s = .next
    (match s.sampleKeys.1 with
      | .failure => s.sampleKeys.2.raiseAt .capabilityError (encode (.ldVK x)) (.collaborator .input)
      | .value K => (s.sampleKeys.2.advance.setKwPrev K).setMode (.awaitingKey x)) := rfl

theorem pollKeys_eq (x : RegIx) (s : State) : pollKeys x s =
    match s.sampleKeys.1 with
    | .failure => s.sampleKeys.2.raise .capabilityError (some (waitAddr s)) none (.collaborator .input)
    | .value K =>
      match leastKey (newKeys Config.keywaitTrigger K s.kwPrev) with
      | some k => (s.sampleKeys.2.setReg x (BitVec.ofNat 8 k)).setMode .running
      | none => s.sampleKeys.2.setKwPrev K := rfl

/-! ### The framebuffer -/

/-- Reading a pixel after a flip: that pixel is inverted, every other is as before. -/
theorem Framebuffer.pixel_flip (fb : Framebuffer) (px py qx qy : Nat) :
    (fb.flip px py).pixel qx qy =
      if qx % Config.dispW = px % Config.dispW ∧ qy % Config.dispH = py % Config.dispH then !fb.pixel px py
      else fb.pixel qx qy := by
  unfold Framebuffer.flip Framebuffer.pixel
  simp only [Vector.getElem_set]
  by_cases hy : qy % Config.dispH = py % Config.dispH
  · by_cases hx : qx % Config.dispW = px % Config.dispW
    · simp [hx, hy]
    · simp only [hy, if_true, Vector.getElem_set, hx, Ne.symm hx, if_false, false_and]
  · simp [hy, Ne.symm hy]

@[simp] theorem Framebuffer.pixel_blank (px py : Nat) : Framebuffer.blank.pixel px py = false := by
  simp [Framebuffer.pixel, Framebuffer.blank]

/-- Both coordinates wrap (44_display.md R254). -/
theorem Framebuffer.pixel_mod (fb : Framebuffer) (px py : Nat) :
    fb.pixel (px % Config.dispW) (py % Config.dispH) = fb.pixel px py := by
  simp [Framebuffer.pixel]

/-- A framebuffer is determined by its pixels. -/
theorem Framebuffer.ext_of_pixel {f g : Framebuffer} (h : ∀ px py, f.pixel px py = g.pixel px py) : f = g := by
  apply Vector.ext
  intro y hy
  apply Vector.ext
  intro x hx
  have := h x y
  simpa [Framebuffer.pixel, Nat.mod_eq_of_lt hx, Nat.mod_eq_of_lt hy] using this

/-- One pixel of the blit, as pixels and collision. -/
theorem drawPixel_eq (px py : Nat) (bit : Bool) (acc : Framebuffer × Bool) :
    drawPixel px py bit acc = (if bit then acc.1.flip px py else acc.1, acc.2 || (bit && acc.1.pixel px py)) := by
  cases bit <;> simp [drawPixel]

/-- A draw of no rows leaves the framebuffer, with no collision (44_display.md R253). -/
@[simp] theorem blit_nil (vx vy : Nat) (fb : Framebuffer) : blit vx vy [] fb = (fb, false) := rfl

/-- The column of a sprite at vx that the pixel column qx is. -/
abbrev colAt (vx qx : Nat) : Nat := (qx + Config.dispW - vx % Config.dispW) % Config.dispW

/-- The row of a sprite at vy that the pixel row qy is. -/
abbrev rowAt (vy qy : Nat) : Nat := (qy + Config.dispH - vy % Config.dispH) % Config.dispH

theorem colAt_eq {vx qx c : Nat} (hc : c < Config.dispW) :
    qx % Config.dispW = (vx + c) % Config.dispW ↔ colAt vx qx = c := by
  simp only [colAt, Config.dispW] at *; omega

theorem rowAt_eq {vy qy c : Nat} (hc : c < Config.dispH) :
    qy % Config.dispH = (vy + c) % Config.dispH ↔ rowAt vy qy = c := by
  simp only [rowAt, Config.dispH] at *; omega

/-- The first k columns of a sprite row: what the pixels become, and when a collision is reported. -/
theorem drawCols_spec (vx py : Nat) (row : Byte) (acc : Framebuffer × Bool) (k : Nat) (hk : k ≤ Config.dispW) :
    let out := (List.range k).foldl (fun acc c => drawPixel (vx + c) py (spriteBit row c) acc) acc
    (∀ qx qy, out.1.pixel qx qy = (acc.1.pixel qx qy !=
      (decide (colAt vx qx < k ∧ qy % Config.dispH = py % Config.dispH) && spriteBit row (colAt vx qx)))) ∧
    (out.2 = true ↔ acc.2 = true ∨ ∃ c, c < k ∧ spriteBit row c = true ∧ acc.1.pixel (vx + c) py = true) := by
  induction k with
  | zero => simp
  | succ k ih =>
    obtain ⟨ih1, ih2⟩ := ih (by omega)
    simp only [List.range_succ, List.foldl_append, List.foldl_cons, List.foldl_nil]
    rw [drawPixel_eq]
    have hself : colAt vx (vx + k) = k := (colAt_eq (by omega)).1 rfl
    have hpx := ih1 (vx + k) py
    rw [hself] at hpx; simp only [Nat.lt_irrefl, false_and, decide_false, Bool.false_and, Bool.bne_false] at hpx
    refine ⟨fun qx qy => ?_, ?_⟩
    · have hc := colAt_eq (vx := vx) (qx := qx) (c := k) (by omega)
      have e1 := ih1 qx qy
      by_cases hb : spriteBit row k = true
      · rw [if_pos hb, Framebuffer.pixel_flip, hpx]
        by_cases hq : colAt vx qx = k
        · by_cases hy : qy % Config.dispH = py % Config.dispH
          · rw [if_pos ⟨hc.2 hq, hy⟩]
            have : acc.1.pixel (vx + k) py = acc.1.pixel qx qy := by
              rw [← acc.1.pixel_mod (vx + k), ← acc.1.pixel_mod qx, hc.2 hq, hy]
            rw [this, hq]; simp [hy, hb]
          · rw [if_neg (by tauto), e1]; simp [hy]
        · rw [if_neg (by tauto), e1]
          have : (colAt vx qx < k) ↔ colAt vx qx < k + 1 := by omega
          simp only [this]
      · have hb : spriteBit row k = false := by simpa using hb
        rw [hb]; simp only [Bool.false_eq_true, if_false, e1]
        by_cases hq : colAt vx qx = k
        · rw [hq, hb]; simp
        · have : (colAt vx qx < k) ↔ colAt vx qx < k + 1 := by omega
          simp only [this]
    · rw [Bool.or_eq_true, ih2, Bool.and_eq_true, hpx]
      constructor
      · rintro ((h | ⟨c, hc, h⟩) | ⟨h1, h2⟩)
        · exact .inl h
        · exact .inr ⟨c, by omega, h⟩
        · exact .inr ⟨k, by omega, h1, h2⟩
      · rintro (h | ⟨c, hc, h⟩)
        · exact .inl (.inl h)
        · rcases Nat.lt_succ_iff_lt_or_eq.1 hc with hc | rfl
          · exact .inl (.inr ⟨c, hc, h⟩)
          · exact .inr h

/-- A sprite row (44_display.md R252). -/
theorem drawRow_spec (vx py : Nat) (row : Byte) (acc : Framebuffer × Bool) :
    (∀ qx qy, (drawRow vx py row acc).1.pixel qx qy = (acc.1.pixel qx qy !=
      (decide (colAt vx qx < Config.spriteW ∧ qy % Config.dispH = py % Config.dispH) && spriteBit row (colAt vx qx)))) ∧
    ((drawRow vx py row acc).2 = true ↔
      acc.2 = true ∨ ∃ c, c < Config.spriteW ∧ spriteBit row c = true ∧ acc.1.pixel (vx + c) py = true) :=
  drawCols_spec vx py row acc Config.spriteW (by decide)

/-- The rows of a sprite (44_display.md R252): what the pixels become, and when a collision is reported. -/
theorem drawRows_spec (vx vy : Nat) (rows : List Byte) (acc : Framebuffer × Bool) (hl : rows.length ≤ Config.dispH) :
    (∀ qx qy, (drawRows vx vy rows acc).1.pixel qx qy = (acc.1.pixel qx qy !=
      (decide (colAt vx qx < Config.spriteW ∧ rowAt vy qy < rows.length) &&
        spriteBit (rows.getD (rowAt vy qy) 0) (colAt vx qx)))) ∧
    ((drawRows vx vy rows acc).2 = true ↔ acc.2 = true ∨ ∃ r c, r < rows.length ∧ c < Config.spriteW ∧
      spriteBit (rows.getD r 0) c = true ∧ acc.1.pixel (vx + c) (vy + r) = true) := by
  induction rows generalizing vy acc with
  | nil => simp [drawRows]
  | cons row rows ih =>
    simp only [List.length_cons] at hl
    obtain ⟨r1, r2⟩ := drawRow_spec vx vy row acc
    obtain ⟨i1, i2⟩ := ih (vy + 1) (drawRow vx vy row acc) (by omega)
    simp only [drawRows]
    refine ⟨fun qx qy => ?_, ?_⟩
    · rw [i1, r1]
      rcases Nat.eq_zero_or_pos (rowAt vy qy) with h0 | hp
      · have hy : qy % Config.dispH = vy % Config.dispH := (rowAt_eq (c := 0) (by decide)).2 h0
        have h1 : ¬ rowAt (vy + 1) qy < rows.length := by simp only [rowAt, Config.dispH] at *; omega
        simp [h0, h1, hy]
      · have hy : ¬ qy % Config.dispH = vy % Config.dispH := fun h => by
          have := (rowAt_eq (vy := vy) (qy := qy) (c := 0) (by decide)).1 h; omega
        have h1 : rowAt vy qy = rowAt (vy + 1) qy + 1 := by simp only [rowAt, Config.dispH] at *; omega
        rw [h1]; simp [hy]
    · rw [i2, r2]
      have hpix : ∀ r c, r < rows.length →
          (drawRow vx vy row acc).1.pixel (vx + c) (vy + 1 + r) = acc.1.pixel (vx + c) (vy + (r + 1)) := by
        intro r c hr
        rw [r1]
        have : ¬ (vy + 1 + r) % Config.dispH = vy % Config.dispH := by simp only [Config.dispH] at *; omega
        rw [show vy + 1 + r = vy + (r + 1) by omega] at *; simp [this]
      constructor
      · rintro ((h | ⟨c, hc, h1, h2⟩) | ⟨r, c, hr, hc, h1, h2⟩)
        · exact .inl h
        · exact .inr ⟨0, c, by simp, hc, by simpa using h1, by simpa using h2⟩
        · exact .inr ⟨r + 1, c, by simpa using hr, hc, by simpa using h1, by rw [← hpix r c hr]; exact h2⟩
      · rintro (h | ⟨r, c, hr, hc, h1, h2⟩)
        · exact .inl (.inl h)
        · cases r with
          | zero => exact .inl (.inr ⟨c, hc, by simpa using h1, by simpa using h2⟩)
          | succ r =>
            have hr : r < rows.length := by simpa using hr
            exact .inr ⟨r, c, hr, hc, by simpa using h1, by rw [hpix r c hr]; exact h2⟩

/-! ### Transitions -/

/-- Every instruction answers a next state: an error is one too (60_exceptions.md R316). -/
theorem exec_answers (i : Instr) (s : State) : ∃ t, exec i s = .next t := by
  cases i <;>
    first
    | exact ⟨_, rfl⟩
    | exact ⟨_, execRet_eq s⟩
    | exact ⟨_, execCall_eq _ s⟩
    | exact ⟨_, execRnd_eq _ _ s⟩
    | exact ⟨_, execDrw_eq _ _ _ s⟩
    | exact ⟨_, keySkip_eq _ _ _ s⟩
    | exact ⟨_, execLdVK_eq _ s⟩
    | exact ⟨_, storeAtI_eq _ _ s⟩

/-- What a transition that answers a next state did (40_step.md R122). -/
theorem transition_next_cases {e : Transition} {s t : State} (h : transition e s = .next t) :
    (s.mode = .running ∧ e = .step ∧ executeStep s = .next t) ∨
    (∃ x, s.mode = .awaitingKey x ∧ e = .step ∧ t = pollKeys x s) ∨
    ((s.mode = .running ∨ ∃ x, s.mode = .awaitingKey x) ∧ e = .tick ∧ t = s.ticked) ∨
    ((s.mode = .running ∨ ∃ x, s.mode = .awaitingKey x) ∧ e = .cancel ∧ t = s.cancelled) := by
  unfold transition at h
  split at h <;> simp_all

/-- What a Step in mode Running that answers a next state did (40_step.md R123). -/
theorem executeStep_next_cases {s t : State} (h : executeStep s = .next t) :
    (∃ r, decode s.fetchWord = .error r ∧ t = s.raiseAt .decodeError s.fetchWord .none) ∨
    (∃ i, decode s.fetchWord = .ok i ∧ exec i s = .next t) := by
  unfold executeStep at h
  split at h
  · next r hr => exact .inl ⟨r, hr, by simpa using h.symm⟩
  · next i hi => exact .inr ⟨i, hi, h⟩

/-- Taking an event off the list does not change what is fetched. -/
@[simp] theorem State.fetchWord_afterEvent (s : State) : s.afterEvent.fetchWord = s.fetchWord := rfl

/-- Construction from the empty image is the reset state (70_reset_and_hazards.md R350). -/
theorem construct_nil : construct [] = .ok State.reset := rfl

/-! ### Words placed where the fetch reads them -/

/-- A word placed at PC is the word fetched, from a PC below MEM_SIZE or not. -/
theorem State.fetchWord_pokeWord (s : State) (w : Word) : (s.pokeWord w).fetchWord = w := by
  have h : s.pc.toNat % Config.memSize ≠ (s.pc.toNat + 1) % Config.memSize := by
    simp only [Config.memSize]; omega
  simp only [State.fetchWord, State.pokeWord, State.setMem_pc, State.setMem_mem, Memory.read_write_same,
    Memory.read_write_other _ _ h, wordOfBytes_hi_lo]

end Sys2Proof.Machine
end

