-- ==== Sys2Proof/Laws/PerInstr.lean ====
section
/-! SUPPORT. Two facts of every instruction as syntax, one lemma per constructor: its word matches the mask and match of
its row of spec/opcode_table.json (MatchesRow), and its operands fit their fields (FieldsFit). -/

namespace Sys2Proof.Laws

/-- The `mask` of the instruction's row of spec/opcode_table.json. -/
def rowMask : Instr → Word
  | .cls => 0xFFFF
  | .ret => 0xFFFF
  | .jp _ => 0xF000
  | .call _ => 0xF000
  | .seVB _ _ => 0xF000
  | .sneVB _ _ => 0xF000
  | .seVV _ _ => 0xF00F
  | .ldVB _ _ => 0xF000
  | .addVB _ _ => 0xF000
  | .ldVV _ _ => 0xF00F
  | .orVV _ _ => 0xF00F
  | .andVV _ _ => 0xF00F
  | .xorVV _ _ => 0xF00F
  | .addVV _ _ => 0xF00F
  | .sub _ _ => 0xF00F
  | .shr _ _ => 0xF00F
  | .subn _ _ => 0xF00F
  | .shl _ _ => 0xF00F
  | .sneVV _ _ => 0xF00F
  | .ldI _ => 0xF000
  | .jpV0 _ => 0xF000
  | .rnd _ _ => 0xF000
  | .drw _ _ _ => 0xF000
  | .skp _ => 0xF0FF
  | .sknp _ => 0xF0FF
  | .ldVDT _ => 0xF0FF
  | .ldVK _ => 0xF0FF
  | .ldDTV _ => 0xF0FF
  | .ldSTV _ => 0xF0FF
  | .addIV _ => 0xF0FF
  | .ldFV _ => 0xF0FF
  | .ldBV _ => 0xF0FF
  | .ldMV _ => 0xF0FF
  | .ldVM _ => 0xF0FF

/-- The `match` of the instruction's row of spec/opcode_table.json. -/
def rowMatch : Instr → Word
  | .cls => 0x00E0
  | .ret => 0x00EE
  | .jp _ => 0x1000
  | .call _ => 0x2000
  | .seVB _ _ => 0x3000
  | .sneVB _ _ => 0x4000
  | .seVV _ _ => 0x5000
  | .ldVB _ _ => 0x6000
  | .addVB _ _ => 0x7000
  | .ldVV _ _ => 0x8000
  | .orVV _ _ => 0x8001
  | .andVV _ _ => 0x8002
  | .xorVV _ _ => 0x8003
  | .addVV _ _ => 0x8004
  | .sub _ _ => 0x8005
  | .shr _ _ => 0x8006
  | .subn _ _ => 0x8007
  | .shl _ _ => 0x800E
  | .sneVV _ _ => 0x9000
  | .ldI _ => 0xA000
  | .jpV0 _ => 0xB000
  | .rnd _ _ => 0xC000
  | .drw _ _ _ => 0xD000
  | .skp _ => 0xE09E
  | .sknp _ => 0xE0A1
  | .ldVDT _ => 0xF007
  | .ldVK _ => 0xF00A
  | .ldDTV _ => 0xF015
  | .ldSTV _ => 0xF018
  | .addIV _ => 0xF01E
  | .ldFV _ => 0xF029
  | .ldBV _ => 0xF033
  | .ldMV _ => 0xF055
  | .ldVM _ => 0xF065

theorem and_ones4 (a : BitVec 4) : a &&& 0xF#4 = a := BitVec.and_allOnes

theorem and_ones8 (a : BitVec 8) : a &&& 0xFF#8 = a := BitVec.and_allOnes

theorem and_zeros {w : Nat} (a : BitVec w) : a &&& 0#w = 0#w := BitVec.and_zero

/-- A mask of a nibble and of what follows it acts on each. -/
theorem and_cons {w : Nat} {a m r : BitVec 4} {b n q : BitVec w} (ha : a &&& m = r) (hb : b &&& n = q) :
    (a ++ b) &&& (m ++ n) = r ++ q := by
  rw [BitVec.and_append, ha, hb]

theorem encodeA_and_op (op : BitVec 4) (nnn : Addr12) : encodeA op nnn &&& 0xF000 = encodeA op 0 :=
  and_cons (and_ones4 op) (and_zeros nnn)

theorem encodeXNN_and_op (op : BitVec 4) (x : RegIx) (nn : Byte) : encodeXNN op x nn &&& 0xF000 = encodeXNN op 0 0 :=
  and_cons (n := (0#4 ++ 0#8 : BitVec 12)) (and_ones4 op) (and_cons (and_zeros x) (and_zeros nn))

theorem encodeXNN_and_low (op : BitVec 4) (x : RegIx) (nn : Byte) : encodeXNN op x nn &&& 0xF0FF = encodeXNN op 0 nn :=
  and_cons (n := (0#4 ++ 0xFF#8 : BitVec 12)) (and_ones4 op) (and_cons (and_zeros x) (and_ones8 nn))

theorem encodeXY_and_op (op : BitVec 4) (x y : RegIx) (s : BitVec 4) :
    encodeXY op x y s &&& 0xF000 = encodeXY op 0 0 0 :=
  and_cons (n := (0#4 ++ (0#4 ++ 0#4 : BitVec 8) : BitVec 12)) (and_ones4 op)
    (and_cons (n := (0#4 ++ 0#4 : BitVec 8)) (and_zeros x) (and_cons (and_zeros y) (and_zeros s)))

theorem encodeXY_and_low (op : BitVec 4) (x y : RegIx) (s : BitVec 4) :
    encodeXY op x y s &&& 0xF00F = encodeXY op 0 0 s :=
  and_cons (n := (0#4 ++ (0#4 ++ 0xF#4 : BitVec 8) : BitVec 12)) (and_ones4 op)
    (and_cons (n := (0#4 ++ 0xF#4 : BitVec 8)) (and_zeros x) (and_cons (and_zeros y) (and_ones4 s)))

theorem fieldFits_toNat {w : Nat} (b : BitVec w) : fieldFits w b.toNat = true := by
  simp [fieldFits, b.isLt]

namespace MatchesRow

/-- The instruction's word has the fixed bits of its row. -/
def Statement (i : Instr) : Prop := encode i &&& rowMask i = rowMatch i

theorem cls : Statement .cls := rfl
theorem ret : Statement .ret := rfl
theorem jp (nnn : Addr12) : Statement (.jp nnn) := (encodeA_and_op _ _).trans rfl
theorem call (nnn : Addr12) : Statement (.call nnn) := (encodeA_and_op _ _).trans rfl
theorem seVB (x : RegIx) (nn : Byte) : Statement (.seVB x nn) := (encodeXNN_and_op _ _ _).trans rfl
theorem sneVB (x : RegIx) (nn : Byte) : Statement (.sneVB x nn) := (encodeXNN_and_op _ _ _).trans rfl
theorem seVV (x : RegIx) (y : RegIx) : Statement (.seVV x y) := (encodeXY_and_low _ _ _ _).trans rfl
theorem ldVB (x : RegIx) (nn : Byte) : Statement (.ldVB x nn) := (encodeXNN_and_op _ _ _).trans rfl
theorem addVB (x : RegIx) (nn : Byte) : Statement (.addVB x nn) := (encodeXNN_and_op _ _ _).trans rfl
theorem ldVV (x : RegIx) (y : RegIx) : Statement (.ldVV x y) := (encodeXY_and_low _ _ _ _).trans rfl
theorem orVV (x : RegIx) (y : RegIx) : Statement (.orVV x y) := (encodeXY_and_low _ _ _ _).trans rfl
theorem andVV (x : RegIx) (y : RegIx) : Statement (.andVV x y) := (encodeXY_and_low _ _ _ _).trans rfl
theorem xorVV (x : RegIx) (y : RegIx) : Statement (.xorVV x y) := (encodeXY_and_low _ _ _ _).trans rfl
theorem addVV (x : RegIx) (y : RegIx) : Statement (.addVV x y) := (encodeXY_and_low _ _ _ _).trans rfl
theorem sub (x : RegIx) (y : RegIx) : Statement (.sub x y) := (encodeXY_and_low _ _ _ _).trans rfl
theorem shr (x : RegIx) (y : RegIx) : Statement (.shr x y) := (encodeXY_and_low _ _ _ _).trans rfl
theorem subn (x : RegIx) (y : RegIx) : Statement (.subn x y) := (encodeXY_and_low _ _ _ _).trans rfl
theorem shl (x : RegIx) (y : RegIx) : Statement (.shl x y) := (encodeXY_and_low _ _ _ _).trans rfl
theorem sneVV (x : RegIx) (y : RegIx) : Statement (.sneVV x y) := (encodeXY_and_low _ _ _ _).trans rfl
theorem ldI (nnn : Addr12) : Statement (.ldI nnn) := (encodeA_and_op _ _).trans rfl
theorem jpV0 (nnn : Addr12) : Statement (.jpV0 nnn) := (encodeA_and_op _ _).trans rfl
theorem rnd (x : RegIx) (nn : Byte) : Statement (.rnd x nn) := (encodeXNN_and_op _ _ _).trans rfl
theorem drw (x : RegIx) (y : RegIx) (n : Nibble) : Statement (.drw x y n) := (encodeXY_and_op _ _ _ _).trans rfl
theorem skp (x : RegIx) : Statement (.skp x) := (encodeXNN_and_low _ _ _).trans rfl
theorem sknp (x : RegIx) : Statement (.sknp x) := (encodeXNN_and_low _ _ _).trans rfl
theorem ldVDT (x : RegIx) : Statement (.ldVDT x) := (encodeXNN_and_low _ _ _).trans rfl
theorem ldVK (x : RegIx) : Statement (.ldVK x) := (encodeXNN_and_low _ _ _).trans rfl
theorem ldDTV (x : RegIx) : Statement (.ldDTV x) := (encodeXNN_and_low _ _ _).trans rfl
theorem ldSTV (x : RegIx) : Statement (.ldSTV x) := (encodeXNN_and_low _ _ _).trans rfl
theorem addIV (x : RegIx) : Statement (.addIV x) := (encodeXNN_and_low _ _ _).trans rfl
theorem ldFV (x : RegIx) : Statement (.ldFV x) := (encodeXNN_and_low _ _ _).trans rfl
theorem ldBV (x : RegIx) : Statement (.ldBV x) := (encodeXNN_and_low _ _ _).trans rfl
theorem ldMV (x : RegIx) : Statement (.ldMV x) := (encodeXNN_and_low _ _ _).trans rfl
theorem ldVM (x : RegIx) : Statement (.ldVM x) := (encodeXNN_and_low _ _ _).trans rfl

end MatchesRow

namespace FieldsFit

/-- Every operand of the instruction fits its field (30_encoding.md R91, R93). -/
def Statement (i : Instr) : Prop := i.wellFormed = true

theorem cls : Statement .cls := rfl
theorem ret : Statement .ret := rfl
theorem jp (nnn : Addr12) : Statement (.jp nnn) := fieldFits_toNat nnn
theorem call (nnn : Addr12) : Statement (.call nnn) := fieldFits_toNat nnn
theorem seVB (x : RegIx) (nn : Byte) : Statement (.seVB x nn) := by
  simp [Statement, Instr.wellFormed, registerFits, immediateFits, fieldFits_toNat]
theorem sneVB (x : RegIx) (nn : Byte) : Statement (.sneVB x nn) := by
  simp [Statement, Instr.wellFormed, registerFits, immediateFits, fieldFits_toNat]
theorem seVV (x : RegIx) (y : RegIx) : Statement (.seVV x y) := by
  simp [Statement, Instr.wellFormed, registerFits, fieldFits_toNat]
theorem ldVB (x : RegIx) (nn : Byte) : Statement (.ldVB x nn) := by
  simp [Statement, Instr.wellFormed, registerFits, immediateFits, fieldFits_toNat]
theorem addVB (x : RegIx) (nn : Byte) : Statement (.addVB x nn) := by
  simp [Statement, Instr.wellFormed, registerFits, immediateFits, fieldFits_toNat]
theorem ldVV (x : RegIx) (y : RegIx) : Statement (.ldVV x y) := by
  simp [Statement, Instr.wellFormed, registerFits, fieldFits_toNat]
theorem orVV (x : RegIx) (y : RegIx) : Statement (.orVV x y) := by
  simp [Statement, Instr.wellFormed, registerFits, fieldFits_toNat]
theorem andVV (x : RegIx) (y : RegIx) : Statement (.andVV x y) := by
  simp [Statement, Instr.wellFormed, registerFits, fieldFits_toNat]
theorem xorVV (x : RegIx) (y : RegIx) : Statement (.xorVV x y) := by
  simp [Statement, Instr.wellFormed, registerFits, fieldFits_toNat]
theorem addVV (x : RegIx) (y : RegIx) : Statement (.addVV x y) := by
  simp [Statement, Instr.wellFormed, registerFits, fieldFits_toNat]
theorem sub (x : RegIx) (y : RegIx) : Statement (.sub x y) := by
  simp [Statement, Instr.wellFormed, registerFits, fieldFits_toNat]
theorem shr (x : RegIx) (y : RegIx) : Statement (.shr x y) := by
  simp [Statement, Instr.wellFormed, registerFits, fieldFits_toNat]
theorem subn (x : RegIx) (y : RegIx) : Statement (.subn x y) := by
  simp [Statement, Instr.wellFormed, registerFits, fieldFits_toNat]
theorem shl (x : RegIx) (y : RegIx) : Statement (.shl x y) := by
  simp [Statement, Instr.wellFormed, registerFits, fieldFits_toNat]
theorem sneVV (x : RegIx) (y : RegIx) : Statement (.sneVV x y) := by
  simp [Statement, Instr.wellFormed, registerFits, fieldFits_toNat]
theorem ldI (nnn : Addr12) : Statement (.ldI nnn) := fieldFits_toNat nnn
theorem jpV0 (nnn : Addr12) : Statement (.jpV0 nnn) := fieldFits_toNat nnn
theorem rnd (x : RegIx) (nn : Byte) : Statement (.rnd x nn) := by
  simp [Statement, Instr.wellFormed, registerFits, immediateFits, fieldFits_toNat]
theorem drw (x : RegIx) (y : RegIx) (n : Nibble) : Statement (.drw x y n) := by
  simp [Statement, Instr.wellFormed, registerFits, rowsFit, fieldFits_toNat]
theorem skp (x : RegIx) : Statement (.skp x) := fieldFits_toNat x
theorem sknp (x : RegIx) : Statement (.sknp x) := fieldFits_toNat x
theorem ldVDT (x : RegIx) : Statement (.ldVDT x) := fieldFits_toNat x
theorem ldVK (x : RegIx) : Statement (.ldVK x) := fieldFits_toNat x
theorem ldDTV (x : RegIx) : Statement (.ldDTV x) := fieldFits_toNat x
theorem ldSTV (x : RegIx) : Statement (.ldSTV x) := fieldFits_toNat x
theorem addIV (x : RegIx) : Statement (.addIV x) := fieldFits_toNat x
theorem ldFV (x : RegIx) : Statement (.ldFV x) := fieldFits_toNat x
theorem ldBV (x : RegIx) : Statement (.ldBV x) := fieldFits_toNat x
theorem ldMV (x : RegIx) : Statement (.ldMV x) := fieldFits_toNat x
theorem ldVM (x : RegIx) : Statement (.ldVM x) := fieldFits_toNat x

end FieldsFit

end Sys2Proof.Laws
end

