-- ==== Sys2Proof/Tests/Slice0.lean ====
section
/-! SUPPORT. The model's own tests: the checks of WellFormed refuse an ill-formed term, words written out from
spec/30_encoding.md decode to what they stand for, single steps give what spec/95_test_vectors.md says (its numbers E and
T stand beside each), and every statement with hypotheses has a witness that meets them. -/

namespace Sys2Proof.Tests

open Sys2Proof.Machine Sys2Proof.Claims

-- one theorem after the other: the kernel checks below in parallel would need a thread, and its stack, each
set_option Elab.async false

/-! ### WellFormed refuses -/

theorem test_field_refuses : fieldFits 4 16 = false := by decide
theorem test_register_refuses : registerFits 0x10 = false := by decide
theorem test_immediate_refuses : immediateFits 0x100 = false := by decide
theorem test_address_refuses : addressFits 0x1000 = false := by decide
theorem test_rows_refuse : rowsFit 16 = false := by decide

/-- MEM_SIZE must be a power of two in the range of R5: 0x1001, 0x200 and 0x20000 are refused. -/
theorem test_mem_size_refuses :
    (List.map (fun n => Config.Params.memSizeOk { Config.params with memSize := n }) [0x1001, 0x200, 0x20000, 0x1000]) =
      [false, false, false, true] := by decide

/-- The font must end by PROGRAM_OFFSET, and PROGRAM_OFFSET lie below MEM_SIZE (R5). -/
theorem test_regions_refuse :
    Config.Params.regionsOk { Config.params with fontBase := 0x1B1 } = false ∧
    Config.Params.regionsOk { Config.params with programOffset := 0x1000 } = false := by decide

theorem test_display_refuses :
    Config.Params.displayOk { Config.params with dispW := 0 } = false ∧
    Config.Params.displayOk { Config.params with dispH := 0 } = false := by decide
theorem test_stack_refuses : Config.Params.stackOk { Config.params with stackDepth := 0 } = false := by decide
theorem test_params_accepted : Config.params.wellFormed = true := by decide

/-- E12: 3585 bytes are refused, 3584 accepted. -/
theorem test_image_refused : imageFits (List.replicate 3585 0) = false ∧ imageFits (List.replicate 3584 0) = true := by
  decide +kernel

/-! ### Decoding: words written out bit by bit from 30_encoding.md R92 and R96 -/

theorem test_decode_class0 :
    decode 0b0000_0000_1110_0000#16 = .ok .cls ∧ decode 0b0000_0000_1110_1110#16 = .ok .ret := by decide

/-- Format F-A: the class nibble, then nnn. -/
theorem test_decode_addresses :
    decode 0b0001_0010_0011_0100#16 = .ok (.jp 0x234) ∧ decode 0b0010_0011_0000_0100#16 = .ok (.call 0x304) ∧
    decode 0b1010_0001_1001_1110#16 = .ok (.ldI 0x19E) ∧ decode 0b1011_0111_0001_1000#16 = .ok (.jpV0 0x718) := by
  decide

/-- Format F-XNN: the class nibble, x, nn. -/
theorem test_decode_immediates :
    decode 0b0011_1010_0100_0010#16 = .ok (.seVB 0xA 0x42) ∧ decode 0b0100_0101_1000_0001#16 = .ok (.sneVB 0x5 0x81) ∧
    decode 0b0110_1010_1001_1101#16 = .ok (.ldVB 0xA 0x9D) ∧ decode 0b0111_0011_0000_0010#16 = .ok (.addVB 0x3 0x02) ∧
    decode 0b1100_1100_0000_1111#16 = .ok (.rnd 0xC 0x0F) := by decide

/-- Format F-XY: the class nibble, x, y, the low nibble. -/
theorem test_decode_registers :
    decode 0b0101_0001_0010_0000#16 = .ok (.seVV 0x1 0x2) ∧ decode 0b1001_0011_0100_0000#16 = .ok (.sneVV 0x3 0x4) ∧
    decode 0b1000_0001_0010_0000#16 = .ok (.ldVV 0x1 0x2) ∧ decode 0b1000_0011_0100_0001#16 = .ok (.orVV 0x3 0x4) ∧
    decode 0b1000_0101_0110_0010#16 = .ok (.andVV 0x5 0x6) ∧ decode 0b1000_0111_1000_0011#16 = .ok (.xorVV 0x7 0x8) ∧
    decode 0b1000_1001_1010_0100#16 = .ok (.addVV 0x9 0xA) ∧ decode 0b1000_1011_1100_0101#16 = .ok (.sub 0xB 0xC) ∧
    decode 0b1000_1101_1110_0110#16 = .ok (.shr 0xD 0xE) ∧ decode 0b1000_1111_0000_0111#16 = .ok (.subn 0xF 0x0) ∧
    decode 0b1000_0001_0011_1110#16 = .ok (.shl 0x1 0x3) := by decide

/-- Format F-XYN: class 0xD, x, y, n. -/
theorem test_decode_draw : decode 0b1101_0011_0100_0101#16 = .ok (.drw 0x3 0x4 0x5) := by decide

/-- Format F-X: the class nibble, x, the low byte. -/
theorem test_decode_low_byte :
    decode 0b1110_0111_1001_1110#16 = .ok (.skp 0x7) ∧ decode 0b1110_1000_1010_0001#16 = .ok (.sknp 0x8) ∧
    decode 0b1111_0001_0000_0111#16 = .ok (.ldVDT 0x1) ∧ decode 0b1111_0010_0000_1010#16 = .ok (.ldVK 0x2) ∧
    decode 0b1111_0011_0001_0101#16 = .ok (.ldDTV 0x3) ∧ decode 0b1111_0100_0001_1000#16 = .ok (.ldSTV 0x4) ∧
    decode 0b1111_0101_0001_1110#16 = .ok (.addIV 0x5) ∧ decode 0b1111_0110_0010_1001#16 = .ok (.ldFV 0x6) ∧
    decode 0b1111_1011_0011_0011#16 = .ok (.ldBV 0xB) ∧ decode 0b1111_1100_0101_0101#16 = .ok (.ldMV 0xC) ∧
    decode 0b1111_1101_0110_0101#16 = .ok (.ldVM 0xD) := by decide

/-- T5 to T9, E11 and R97: one illegal word of each class, each rejected under its class. -/
theorem test_decode_rejects :
    decode 0x0000 = .error .class0 ∧ decode 0x0123 = .error .class0 ∧ decode 0x01E0 = .error .class0 ∧
    decode 0x5121 = .error .class5 ∧ decode 0x8128 = .error .class8 ∧ decode 0x812F = .error .class8 ∧
    decode 0x912F = .error .class9 ∧ decode 0xE19F = .error .classE ∧ decode 0xF100 = .error .classF ∧
    decodeBytes [0x00] = .error .truncated := by decide

/-- The host's numbering: the word's bits, high byte first in memory. -/
theorem test_decode_table_word :
    decodeTableWord 16 0x6A07 = some (.ldVB 0xA 0x07) ∧ decodeTableWord 16 0x5121 = none := by
  decide

/-! ### Single steps -/

/-- The reset state with the listed registers written. -/
def regs (rs : List (RegIx × Byte)) : State := rs.foldl (fun s p => s.setReg p.1 p.2) State.reset

/-- `s` with PC at `a`. -/
def atPc (a : Word) (s : State) : State := { s with pc := a }

/-- `s` with I at `w` and the listed bytes from there on. -/
def withBytes (w : Word) (bs : List Byte) (s : State) : State :=
  { s with i := w, mem := s.mem.writeBytes w.toNat bs }

/-- `s` with the listed answers on the `keys` port. -/
def withKeys (ks : List (Answer Word)) (s : State) : State := { s with keysIn := ks }

/-- `s` with a renderer that answers success to the next present. -/
def withRenderer (s : State) : State := { s with presentIn := [.value ()] }

/-- The step that runs the word `w` at PC answers a next state of which `p` holds. -/
def runs (w : Nat) (s : State) (p : State → Bool) : Bool :=
  match step (s.withFetchWord 16 w) with
  | .next t => p t
  | _ => false

/-- A state halted with this kind at 0x200, with the word of the instruction. -/
def haltedAt200 (k : ErrorKind) (w : Word) (i : ErrorInfo) (t : State) : Bool :=
  t.mode == .halted k && t.err == some ⟨k, k.code, some 0x200, some w, i⟩ && t.pc == 0x200

/-- E5, T87. -/
theorem test_cls : runs 0x00E0 { State.reset with fb := Framebuffer.blank.flip 5 7 }
    (fun t => !t.fb.pixel 5 7 && t.presented.isEmpty && t.pc == 0x202) = true := by decide +kernel
/-- T12. -/
theorem test_ret : runs 0x00EE (atPc 0x300 { State.reset with stack := [0x400, 0x202] })
    (fun t => t.stack == [0x400] && t.pc == 0x202) = true := by decide +kernel
/-- E10. -/
theorem test_ret_underflow : runs 0x00EE State.reset (haltedAt200 .stackUnderflow 0x00EE .none) = true := by
  decide +kernel
/-- T3: the fetch takes its second byte from address 0. -/
theorem test_jp_fetch_wraps : runs 0x12F0 (atPc 0xFFF State.reset) (fun t => t.pc == 0x2F0) = true := by decide +kernel
/-- T13. -/
theorem test_call_wraps : runs 0x2400 (atPc 0xFFE State.reset) (fun t => t.stack == [0x000] && t.pc == 0x400) = true := by
  decide +kernel
/-- T14. -/
theorem test_call_overflow : runs 0x2300 { State.reset with stack := List.replicate 16 0x202 }
    (fun t => haltedAt200 .stackOverflow 0x2300 .none t && t.stack.length == 16) = true := by decide +kernel
/-- T15. -/
theorem test_se_vb : runs 0x3342 (regs [(3, 0x42)]) (fun t => t.pc == 0x204) = true := by decide +kernel
/-- T20. -/
theorem test_se_vb_wraps : runs 0x3000 (atPc 0xFFC State.reset) (fun t => t.pc == 0x000) = true := by decide +kernel
/-- T17. -/
theorem test_sne_vb : runs 0x4342 (regs [(3, 0x41)]) (fun t => t.pc == 0x204) = true := by decide +kernel
/-- T18. -/
theorem test_se_vv : runs 0x5120 (regs [(1, 7), (2, 7)]) (fun t => t.pc == 0x204) = true := by decide +kernel
/-- T19. -/
theorem test_sne_vv : runs 0x9110 (regs [(1, 7)]) (fun t => t.pc == 0x202) = true := by decide +kernel
/-- T23. -/
theorem test_jp_v0_wraps : runs 0xBFFF (regs [(0, 0xFF)]) (fun t => t.pc == 0x0FE) = true := by decide +kernel
/-- T24: always V0. -/
theorem test_jp_v0_not_vx : runs 0xBA00 (regs [(0, 0x01), (0xA, 0x50)]) (fun t => t.pc == 0xA01) = true := by
  decide +kernel
/-- T4: an odd PC. -/
theorem test_ld_vb_odd : runs 0x6A07 (atPc 0x201 State.reset) (fun t => t.reg 0xA == 7 && t.pc == 0x203) = true := by
  decide +kernel
/-- E9, T28. -/
theorem test_add_vb : runs 0x7002 (regs [(0, 0xFF), (0xF, 0x07)]) (fun t => t.reg 0 == 1 && t.reg 0xF == 7) = true := by
  decide +kernel
/-- T30. -/
theorem test_ld_vv : runs 0x8120 (regs [(2, 0x33)]) (fun t => t.reg 1 == 0x33 && t.reg 2 == 0x33) = true := by
  decide +kernel
/-- T31. -/
theorem test_or : runs 0x8121 (regs [(1, 0x0F), (2, 0xF0), (0xF, 5)])
    (fun t => t.reg 1 == 0xFF && t.reg 0xF == 5) = true := by
  decide +kernel
/-- T32. -/
theorem test_and : runs 0x8122 (regs [(1, 0x3C), (2, 0x0F)]) (fun t => t.reg 1 == 0x0C) = true := by decide +kernel
/-- T33. -/
theorem test_xor : runs 0x8123 (regs [(1, 0x3C), (2, 0x0F)]) (fun t => t.reg 1 == 0x33) = true := by decide +kernel
/-- T35. -/
theorem test_add_vv : runs 0x8124 (regs [(1, 200), (2, 100)]) (fun t => t.reg 1 == 44 && t.reg 0xF == 1) = true := by
  decide +kernel
/-- T39: x = 0xF, the flag wins. -/
theorem test_add_vv_vf : runs 0x8F14 (regs [(0xF, 0x80), (1, 0x90)]) (fun t => t.reg 0xF == 1) = true := by
  decide +kernel
/-- T41. -/
theorem test_sub_equal : runs 0x8125 (regs [(1, 5), (2, 5)]) (fun t => t.reg 1 == 0 && t.reg 0xF == 1) = true := by
  decide +kernel
/-- T43. -/
theorem test_sub_borrows : runs 0x8125 (regs [(1, 5), (2, 7)]) (fun t => t.reg 1 == 0xFE && t.reg 0xF == 0) = true := by
  decide +kernel
/-- T44. -/
theorem test_subn_borrows : runs 0x8127 (regs [(1, 5), (2, 3)]) (fun t => t.reg 1 == 0xFE && t.reg 0xF == 0) = true := by
  decide +kernel
/-- T45. -/
theorem test_subn : runs 0x8127 (regs [(1, 3), (2, 5)]) (fun t => t.reg 1 == 2 && t.reg 0xF == 1) = true := by
  decide +kernel
/-- T47: the y field is ignored. -/
theorem test_shr : runs 0x8126 (regs [(1, 0x81)]) (fun t => t.reg 1 == 0x40 && t.reg 0xF == 1) = true := by decide +kernel
/-- T49. -/
theorem test_shr_vf : runs 0x8F06 (regs [(0xF, 0x02)]) (fun t => t.reg 0xF == 0) = true := by decide +kernel
/-- T51. -/
theorem test_shl : runs 0x810E (regs [(1, 0x81)]) (fun t => t.reg 1 == 0x02 && t.reg 0xF == 1) = true := by decide +kernel
/-- T52. -/
theorem test_shl_clear : runs 0x810E (regs [(1, 0x7F)]) (fun t => t.reg 1 == 0xFE && t.reg 0xF == 0) = true := by
  decide +kernel
/-- T54: one draw is consumed. -/
theorem test_rnd : runs 0xC30F { State.reset with randIn := [.value 0xA7, .value 0x11] }
    (fun t => t.reg 3 == 0x07 && t.randIn == [.value 0x11]) = true := by decide +kernel
/-- T57. -/
theorem test_rnd_fails : runs 0xC3FF { regs [(3, 9)] with randIn := [.failure] }
    (fun t => haltedAt200 .capabilityError 0xC3FF (.collaborator .random) t && t.reg 3 == 9) = true := by decide +kernel
/-- T58. -/
theorem test_ld_i : runs 0xA300 State.reset (fun t => t.i == 0x0300) = true := by decide +kernel
/-- T60. -/
theorem test_add_i : runs 0xF01E { regs [(0, 1)] with i := 0x0FFF }
    (fun t => t.i == 0x1000 && t.reg 0xF == 0) = true := by
  decide +kernel
/-- T61. -/
theorem test_add_i_wraps : runs 0xF01E { regs [(0, 1), (0xF, 9)] with i := 0xFFFF }
    (fun t => t.i == 0x0000 && t.reg 0xF == 9) = true := by decide +kernel
/-- T62. -/
theorem test_ld_f : runs 0xF029 (regs [(0, 0x0A)]) (fun t => t.i == 0x0032) = true := by decide +kernel
/-- T64: not masked. -/
theorem test_ld_f_not_masked : runs 0xF029 (regs [(0, 0xFF)]) (fun t => t.i == 0x04FB) = true := by decide +kernel
/-- E3, T65. -/
theorem test_ld_b : runs 0xF333 { regs [(3, 157)] with i := 0x300 }
    (fun t => t.mem.read 0x300 == 1 && t.mem.read 0x301 == 5 && t.mem.read 0x302 == 7 && t.i == 0x300) = true := by
  decide +kernel
/-- T68: nothing is written. -/
theorem test_ld_b_font : runs 0xF333 { regs [(3, 42)] with i := 0x0FFF }
    (fun t => haltedAt200 .fontWrite 0xF333 (.address 0x000) t && t.mem.read 0xFFF == 0) = true := by decide +kernel
/-- T70. -/
theorem test_ld_m : runs 0xF255 { regs [(0, 1), (1, 2), (2, 3), (3, 9)] with i := 0x300 }
    (fun t => t.mem.read 0x300 == 1 && t.mem.read 0x301 == 2 && t.mem.read 0x302 == 3 && t.mem.read 0x303 == 0) =
      true := by decide +kernel
/-- T72. -/
theorem test_ld_m_font : runs 0xF355 { regs [(0, 7)] with i := 0x04E }
    (haltedAt200 .fontWrite 0xF355 (.address 0x04E)) = true := by decide +kernel
/-- T74. -/
theorem test_ld_vm : runs 0xF265 (withBytes 0x300 [1, 5, 7, 9] State.reset)
    (fun t => t.reg 0 == 1 && t.reg 1 == 5 && t.reg 2 == 7 && t.reg 3 == 0 && t.i == 0x300) = true := by decide +kernel
/-- T75: glyph 0. -/
theorem test_ld_vm_font : runs 0xF465 State.reset
    (fun t => t.regBlock 5 == [0xF0, 0x90, 0x90, 0x90, 0xF0, 0x00]) = true := by decide +kernel
/-- T80: the second row wraps to the top. -/
theorem test_drw_wraps : runs 0xD012 (withRenderer (withBytes 0x300 [0x80, 0x80] (regs [(0, 0), (1, 31)])))
    (fun t => t.fb.pixel 0 31 && t.fb.pixel 0 0 && !t.fb.pixel 1 31 && t.reg 0xF == 0 && t.presented.length == 1) =
      true := by decide +kernel
/-- T82. -/
theorem test_drw_collides : runs 0xD011
    { withRenderer (withBytes 0x300 [0xC0] (regs [(0, 5), (1, 7)])) with fb := Framebuffer.blank.flip 5 7 }
    (fun t => !t.fb.pixel 5 7 && t.fb.pixel 6 7 && !t.fb.pixel 7 7 && t.reg 0xF == 1) = true := by decide +kernel
/-- T96. -/
theorem test_skp : runs 0xE59E (withKeys [.value 0x0080] (regs [(5, 7)])) (fun t => t.pc == 0x204) = true := by
  decide +kernel
/-- T99: the keys are not queried. -/
theorem test_skp_range : runs 0xE59E (withKeys [.failure] (regs [(5, 0x10)]))
    (fun t => haltedAt200 .keyIndexRange 0xE59E (.key 0x10) t && t.keysIn == [.failure]) = true := by decide +kernel
/-- T98. -/
theorem test_sknp : runs 0xE5A1 (withKeys [.value 0x0000] (regs [(5, 7)])) (fun t => t.pc == 0x204) = true := by
  decide +kernel
/-- T100. -/
theorem test_sknp_fails : runs 0xE5A1 (withKeys [.failure] (regs [(5, 7)]))
    (haltedAt200 .capabilityError 0xE5A1 (.collaborator .input)) = true := by decide +kernel
/-- T91. -/
theorem test_ld_v_dt : runs 0xF307 { State.reset with dt := 0x3C } (fun t => t.reg 3 == 0x3C) = true := by decide +kernel
/-- T101, with a key held. -/
theorem test_ld_v_k : runs 0xF30A (withKeys [.value 0x0010] State.reset)
    (fun t => t.pc == 0x202 && t.mode == .awaitingKey 3 && t.kwPrev == 0x0010 && t.reg 3 == 0) = true := by decide +kernel
/-- T89. -/
theorem test_ld_dt_v : runs 0xF015 (regs [(0, 3)]) (fun t => t.dt == 3 && t.st == 0) = true := by decide +kernel
/-- T90. -/
theorem test_ld_st_v : runs 0xF018 (regs [(0, 0x10)]) (fun t => t.st == 0x10 && t.dt == 0) = true := by decide +kernel

/-! ### The other transitions -/

/-- The step answers a next state of which `p` holds. -/
def steps (s : State) (p : State → Bool) : Bool :=
  match step s with
  | .next t => p t
  | _ => false

/-- A state waiting for a key in V3, with the previous sample `prev` and the next one `K`. -/
def waiting (prev K : Word) : State :=
  { State.reset with pc := 0x202, mode := .awaitingKey 3, kwPrev := prev, keysIn := [.value K] }

/-- E11: the first step from reset fetches 0x0000. -/
theorem test_decode_error : steps State.reset (haltedAt200 .decodeError 0x0000 .none) = true := by decide +kernel
/-- T94: one Tick, both timers, in AwaitingKey. -/
theorem test_tick : steps { waiting 0 0 with dt := 1, st := 5, events := [.tick] }
    (fun t => t.dt == 0 && t.st == 4 && t.mode == .awaitingKey 3 && t.events == []) = true := by decide +kernel
/-- T92: the floor at zero. -/
theorem test_tick_floor : steps { State.reset with dt := 2, st := 0, events := [.tick] }
    (fun t => t.dt == 1 && t.st == 0) = true := by decide +kernel
/-- T103: the lowest of the new keys. -/
theorem test_poll_lowest : steps (waiting 0x0000 0x0220)
    (fun t => t.reg 3 == 5 && t.mode == .running && t.pc == 0x202) = true := by decide +kernel
/-- T104: a held key does not end the wait. -/
theorem test_poll_held : steps (waiting 0x0010 0x0010)
    (fun t => t.mode == .awaitingKey 3 && t.kwPrev == 0x0010) = true := by decide +kernel
/-- T106. -/
theorem test_cancel : steps { waiting 0 0 with events := [.cancel] } (fun t => t.mode == .stopped) = true := by
  decide +kernel
/-- T95: no transition is enabled in Halted. -/
theorem test_halted : step { State.reset with mode := .halted .decodeError, dt := 5, events := [.tick] } =
    .fault (.halted .decodeError) := rfl

/-! ### Witnesses: every statement with hypotheses has a state and operands that meet them -/

/-- The reset state with the word `w` at PC. -/
def withWord (w : Nat) : State := State.reset.withFetchWord 16 w

theorem witness_EncodeOfDecodedWord : ∃ w i, decode w = .ok i ∧ w = 0x8ABE := ⟨_, .shl 0xA 0xB, by decide, rfl⟩

/-- An illegal word of each class at PC, the next transition a Step. -/
theorem witness_IllegalWordsRaiseDecodeError :
    ∀ w ∈ [0x0000, 0x0FFF, 0x5001, 0x8FF8, 0x800F, 0x9FFF, 0xE0A0, 0xFF66],
      AboutToStep (withWord w) ∧ IllegalWord (withWord w).fetchWord := by
  unfold AboutToStep IllegalWord
  decide +kernel

theorem witness_DecodeErrorRecordsWordAndAddress :
    AboutToStep State.reset ∧ IllegalWord State.reset.fetchWord := by
  unfold AboutToStep IllegalWord
  decide +kernel

theorem witness_AddressesWrapAtTheAccess :
    (atPc 0xFFF State.reset).pc.toNat = Config.memSize - 1 ∧ (15 : Nat) < 16 ∧
      ([7, 8] : List Byte).length ≤ Config.memSize := by decide

/-- A state whose I is the address after the instruction, and one further on. -/
theorem witness_StoresAreSeenByTheNextFetch :
    (∀ w ∈ [0x202, 0x203], ∃ s : State, s.i = BitVec.ofNat 16 w ∧ s.effAddr 0 % Config.memSize = w ∧
      pcPlus s 2 = 0x202 ∧ pcPlus s 3 = 0x203 ∧ ClearOfFont s 16 ∧ ClearOfFont s 3) := by
  intro w hw
  refine ⟨{ State.reset with i := BitVec.ofNat 16 w }, rfl, ?_⟩
  simp only [List.mem_cons, List.not_mem_nil, or_false] at hw
  unfold ClearOfFont FontAddr
  rcases hw with rfl | rfl <;> decide +kernel

theorem witness_StepRunsDecodedInstruction :
    AboutToStep (withWord 0x6A07) ∧ decode (withWord 0x6A07).fetchWord = .ok (.ldVB 0xA 0x07) := by
  unfold AboutToStep
  decide +kernel

theorem witness_TransitionsEnabledExactlyWhileRunningOrWaiting :
    Enabled State.reset ∧ Enabled (waiting 0 0) ∧
    (∃ s : State, s.mode = .halted .fontWrite) ∧ ∃ s : State, s.mode = .stopped :=
  ⟨.inl rfl, .inr ⟨3, rfl⟩, ⟨{ State.reset with mode := .halted .fontWrite }, rfl⟩,
    ⟨{ State.reset with mode := .stopped }, rfl⟩⟩

theorem witness_TickDecrementsBothTimers :
    (∃ s : State, Enabled s ∧ s.nextEvent = .tick ∧ s.dt = 0 ∧ s.st = 0xFF) ∧
    (∃ s t : State, s.nextEvent = .step ∧ step s = .next t ∧ t.dt ≠ s.dt) ∧
    (∃ s t : State, s.nextEvent = .step ∧ step s = .next t ∧ t.st ≠ s.st) :=
  ⟨⟨{ State.reset with st := 0xFF, events := [.tick] }, .inl rfl, rfl, rfl, rfl⟩,
    ⟨{ regs [(0, 3)] with mem := (withWord 0xF015).mem }, _, rfl, rfl, by decide +kernel⟩,
    ⟨{ regs [(0, 3)] with mem := (withWord 0xF018).mem }, _, rfl, rfl, by decide +kernel⟩⟩

theorem witness_CancelStopsTheCore : ∃ s : State, Enabled s ∧ s.nextEvent = .cancel :=
  ⟨{ State.reset with events := [.cancel] }, .inl rfl, rfl⟩

/-- Keys 5 and 15 down, 5 held before: 15 ends the wait. -/
theorem witness_PollWithNewKeyEndsTheWait :
    AboutToPoll (waiting 0x0020 0x8020) 3 ∧ (waiting 0x0020 0x8020).sampleKeys.1 = .value 0x8020 ∧
    NewlyDown 0x8020 (waiting 0x0020 0x8020).kwPrev 15 ∧
    ∀ j, j < 15 → ¬ NewlyDown 0x8020 (waiting 0x0020 0x8020).kwPrev j := by
  unfold AboutToPoll NewlyDown
  decide +kernel

theorem witness_PollWithoutNewKeyGoesOnWaiting :
    AboutToPoll (waiting 0x0010 0x0010) 3 ∧ (waiting 0x0010 0x0010).sampleKeys.1 = .value 0x0010 ∧
    ∀ k, ¬ NewlyDown 0x0010 (waiting 0x0010 0x0010).kwPrev k := by
  refine ⟨⟨rfl, rfl⟩, rfl, fun k h => ?_⟩
  have := h.2.1.symm.trans h.2.2
  exact absurd this (by decide)

theorem witness_PollWithFailedQueryHalts :
    AboutToPoll (withKeys [.failure] (waiting 0 0)) 3 ∧
      (withKeys [.failure] (waiting 0 0)).sampleKeys.1 = .failure := ⟨⟨rfl, rfl⟩, rfl⟩

/-- From Running: on, into the wait, halted, stopped; from the wait: on, resumed, halted, stopped. -/
theorem witness_ModeChangesOnlyAsDescribed :
    steps (withWord 0x6000) (fun t => t.mode == .running) = true ∧
    steps (withKeys [.value 0] (withWord 0xF30A)) (fun t => t.mode == .awaitingKey 3) = true ∧
    steps State.reset (fun t => t.mode == .halted .decodeError) = true ∧
    steps { State.reset with events := [.cancel] } (fun t => t.mode == .stopped) = true ∧
    steps (waiting 0 0) (fun t => t.mode == .awaitingKey 3) = true ∧
    steps (waiting 0 1) (fun t => t.mode == .running) = true ∧
    steps (withKeys [.failure] (waiting 0 0)) (fun t => t.mode == .halted .capabilityError) = true ∧
    steps { waiting 0 0 with events := [.cancel] } (fun t => t.mode == .stopped) = true := by decide +kernel

/-- T25. -/
theorem witness_SelfJumpIsFixedPoint :
    (withWord 0x1200).mode = .running ∧ (withWord 0x1200).events = [] ∧
    (withWord 0x1200).pc.toNat = (0x200 : Addr12).toNat ∧ decode (withWord 0x1200).fetchWord = .ok (.jp 0x200) := by
  decide +kernel

/-- A RET that raises an error, and one that does not. -/
theorem witness_ProgramCounterAfterInstruction :
    (∃ t, State.reset.mode = .running ∧ exec .ret State.reset = .next t ∧ t.mode = .halted .stackUnderflow) ∧
    ∃ t, { State.reset with stack := [0x202] }.mode = .running ∧
      exec .ret { State.reset with stack := [0x202] } = .next t ∧ t.mode = .running :=
  ⟨⟨_, rfl, rfl, rfl⟩, ⟨_, rfl, rfl, rfl⟩⟩

theorem witness_RegistersChangeOnlyAsDestinations :
    ∃ t, exec (.addVV 0x1 0x2) State.reset = .next t ∧ writesReg (.addVV 0x1 0x2) 0x2 = false :=
  ⟨_, rfl, by decide⟩

/-- A draw, and a store at I = 0xFFE: two bytes, and the byte beside them. -/
theorem witness_InstructionFrame :
    (∃ t, exec (.drw 0x1 0x2 0xF) State.reset = .next t ∧ Part.stack ∉ mayWrite (.drw 0x1 0x2 0xF) ∧
      writesReg (.drw 0x1 0x2 0xF) 0xE = false) ∧
    ∃ (s t : State), s.i = 0xFFE ∧ exec (.ldMV 0x1) s = .next t ∧ Part.v ∉ mayWrite (.ldMV 0x1) ∧
      ∀ k, k < storedBytes (.ldMV 0x1) → 0x1000 % Config.memSize ≠ s.effAddr k % Config.memSize :=
  ⟨⟨_, rfl, by decide, by decide⟩, ⟨{ State.reset with i := 0xFFE }, _, rfl, rfl, by decide, by decide +kernel⟩⟩

theorem witness_ErrorsDiscardEveryOtherEffect :
    ∃ t, State.reset.mode = .running ∧ exec (.ldBV 0x0) State.reset = .next t ∧ t.mode = .halted .fontWrite :=
  ⟨_, rfl, rfl, rfl⟩

theorem witness_InstructionsRaiseOnlyTheirErrors :
    ∃ t, (regs [(0, 0x10)]).mode = .running ∧ exec (.skp 0x0) (regs [(0, 0x10)]) = .next t ∧
      t.mode = .halted .keyIndexRange := ⟨_, rfl, rfl, rfl⟩

/-- A state about to run 6A07, with a return address on the stack. -/
theorem witness_StepKeepsInvariant :
    ∃ s : State, s.Inv ∧ s.mode = .running ∧ s.stack = [0x202] ∧ steps s (fun t => t.reg 0xA == 0x07) = true := by
  refine ⟨{ State.reset with stack := [0x202], mem := [(0x200, 0x6A), (0x201, 0x07)] },
    ⟨by decide, by decide, by simp [Config.memSize], by decide +kernel, fun a h => ?_, rfl⟩, rfl, rfl,
    by decide +kernel⟩
  have ha : a < 80 := by
    have := (inFont_iff.1 h).2
    simpa [Config.fontBase, Config.fontSize] using this
  simp [Memory.read, Memory.lookup, Nat.mod_eq_of_lt (show a < Config.memSize by simp only [Config.memSize]; omega),
    show a ≠ 0x200 by omega, show a ≠ 0x201 by omega]

theorem witness_FontRegionIsNeverMutated :
    steps (withWord 0xF055) (fun _ => true) = true ∧ FontAddr (0x000 % Config.memSize) ∧
      FontAddr (0x104F % Config.memSize) ∧ ¬ FontAddr (0x050 % Config.memSize) := by
  unfold FontAddr
  decide +kernel

/-- A draw that presents, a step that does not, and a draw whose renderer fails. -/
theorem witness_OnlyDrawPresents :
    steps (withRenderer (withWord 0xD011)) (fun t => t.presented.length == 1) = true ∧
    steps (withWord 0x00E0) (fun t => t.presented.isEmpty) = true ∧
    steps { withWord 0xD011 with presentIn := [.failure] } (fun t => t.presented.isEmpty) = true := by decide +kernel

theorem witness_SoundTimerAndKwPrevAreNotRead :
    ∃ t, exec (.ldVDT 0x3) State.reset = .next t ∧ (∀ x, Instr.ldVDT 0x3 ≠ .ldSTV x) ∧
      ∀ x, Instr.ldVDT 0x3 ≠ .ldVK x := ⟨_, rfl, nofun, nofun⟩

/-- The lengths 3585 and 3584. -/
theorem witness_ConstructionRejectsLongImages :
    Config.memSize - Config.programOffset < (List.replicate 3585 (0 : Byte)).length ∧
    (List.replicate 3584 (0 : Byte)).length ≤ Config.memSize - Config.programOffset := by
  decide +kernel

theorem witness_ConstructionPlacesImage :
    (List.replicate 3584 (0xAA : Byte)).length ≤ Config.memSize - Config.programOffset := by
  decide +kernel

/-- Skips taken and not taken. -/
theorem witness_SkipsFollowTheirCondition :
    (regs [(1, 7), (2, 7)]).reg 1 = 7 ∧ (regs [(1, 7), (2, 7)]).reg 1 = (regs [(1, 7), (2, 7)]).reg 2 ∧
    (regs [(1, 7)]).reg 1 ≠ 8 ∧ (regs [(1, 7)]).reg 1 ≠ (regs [(1, 7)]).reg 2 := by decide +kernel

/-- Fifteen entries, and sixteen. -/
theorem witness_CallPushesReturnAddress :
    { State.reset with stack := List.replicate 15 0x202 }.stack.length < Config.stackDepth ∧
    Config.stackDepth ≤ { State.reset with stack := List.replicate 16 0x202 }.stack.length := by decide +kernel

theorem witness_RetPopsReturnAddress :
    { State.reset with stack := [0x400, 0x202] }.stack = [0x400] ++ [0x202] ∧ State.reset.stack = [] := ⟨rfl, rfl⟩

theorem witness_ReturnUndoesCall :
    ∃ t u : State, State.reset.stack.length < Config.stackDepth ∧ exec (.call 0x300) State.reset = .next t ∧
      u.stack = t.stack := ⟨_, _, by decide, rfl, rfl⟩

/-- VF as the destination, and another register. -/
theorem witness_FlagWritten : (0xF : RegIx) ≠ 0x1 ∧ (0x2 : RegIx) ≠ 0x1 := by decide

theorem witness_RandomMasksTheDraw :
    { State.reset with randIn := [.value 0xA7] }.drawRandom.1 = .value 0xA7 ∧
    { State.reset with randIn := [.failure] }.drawRandom.1 = .failure ∧
    State.reset.drawRandom.1 = Config.freeRandom 0 := ⟨rfl, rfl, rfl⟩

/-- Stores that just clear the font (I = 0x050, and I = 0xFFD ending at 0xFFF), and stores whose first font target is its
last byte, or address 0 after the wrap. -/
theorem witness_BcdStoresDigits :
    ClearOfFont { State.reset with i := 0x050 } 3 ∧ ClearOfFont { State.reset with i := 0xFFD } 3 ∧
    FirstFontTarget { State.reset with i := 0x04F } 3 0x04F ∧
    FirstFontTarget { State.reset with i := 0xFFE } 3 0x000 := by
  refine ⟨?_, ?_, ⟨0, ?_⟩, ⟨2, ?_⟩⟩ <;> (try unfold ClearOfFont) <;> unfold FontAddr <;> decide +kernel

theorem witness_BlockStoreWritesRegisters :
    ClearOfFont { State.reset with i := 0x050 } ((0xF : RegIx).toNat + 1) ∧
    FirstFontTarget { State.reset with i := 0xFFE } ((0x2 : RegIx).toNat + 1) 0x000 ∧
    ClearOfFont { State.reset with i := 0xFFF } ((0x0 : RegIx).toNat + 1) := by
  refine ⟨?_, ⟨2, ?_⟩, ?_⟩ <;> (try unfold ClearOfFont) <;> unfold FontAddr <;> decide +kernel

/-- x = 0xF loads every register; x = 0 leaves V1 alone. -/
theorem witness_BlockLoadReadsRegisters :
    (0xF : RegIx).toNat ≤ (0xF : RegIx).toNat ∧ (0x0 : RegIx).toNat < (0x1 : RegIx).toNat := by decide

theorem witness_StoreThenLoadRestoresRegisters :
    ∃ s t u : State, ClearOfFont s ((0xF : RegIx).toNat + 1) ∧ exec (.ldMV 0xF) s = .next t ∧ u.i = s.i ∧
      ∀ k, k ≤ (0xF : RegIx).toNat → u.mem.read (s.effAddr k) = t.mem.read (s.effAddr k) := by
  refine ⟨{ State.reset with i := 0x300 }, _, _, ?_, rfl, ?_, fun k _ => rfl⟩
  · unfold ClearOfFont FontAddr
    decide +kernel
  · rfl

theorem witness_DrawXorsSpriteAndReportsCollision :
    (withRenderer State.reset).askRenderer.1 = .value () ∧ { State.reset with presentIn := [.failure] }.askRenderer.1 = .failure :=
  ⟨rfl, rfl⟩

/-- E4: a row 0xFF at (0, 0), drawn twice. -/
theorem witness_DrawingTwiceErases :
    ∃ s t u w : State, s.askRenderer.1 = .value () ∧ exec (.drw 0x0 0x1 0x1) s = .next t ∧ u.fb = t.fb ∧
      u.reg 0x0 = s.reg 0x0 ∧ u.reg 0x1 = s.reg 0x1 ∧ u.i = s.i ∧ (∀ a, u.mem.read a = s.mem.read a) ∧
      u.askRenderer.1 = .value () ∧ exec (.drw 0x0 0x1 0x1) u = .next w :=
  ⟨withRenderer (withBytes 0x300 [0xFF] State.reset), _, withRenderer _, _, rfl, rfl, rfl, rfl, rfl, rfl, fun _ => rfl, rfl, rfl⟩

/-- Vx = 0xF with an answer and with a failure, and Vx = 0x10. -/
theorem witness_KeySkipsSampleOnce :
    ((regs [(5, 0xF)]).reg 5).toNat ≤ 0xF ∧
    (withKeys [.value 0x8000] (regs [(5, 0xF)])).sampleKeys.1 = .value 0x8000 ∧
    (withKeys [.failure] (regs [(5, 0xF)])).sampleKeys.1 = .failure ∧ 0xF < ((regs [(5, 0x10)]).reg 5).toNat := by
  decide +kernel

theorem witness_KeyWaitEntry :
    (withKeys [.value 0x0010] State.reset).sampleKeys.1 = .value 0x0010 ∧
    (withKeys [.failure] State.reset).sampleKeys.1 = .failure := ⟨rfl, rfl⟩

end Sys2Proof.Tests
end

section
/-! SUPPORT. Proofs for 20_memory.md: the fetched word as a number, and what a store at I that clears the font region
leaves in memory and in the next fetch. -/

namespace Sys2Proof.Machine

open Sys2Proof.Claims

/-! ### The fetched word -/

/-- The fetched word as a number (20_memory.md R60). -/
theorem State.fetchWord_toNat (s : State) :
    s.fetchWord.toNat = 256 * (s.mem.read s.pc.toNat).toNat + (s.mem.read (s.pc.toNat + 1)).toNat :=
  wordOfBytes_toNat _ _

/-- The high byte of the fetched word is the byte at PC. -/
theorem State.fetchWord_toNat_div (s : State) : s.fetchWord.toNat / 256 = (s.mem.read s.pc.toNat).toNat := by
  have := (s.mem.read (s.pc.toNat + 1)).isLt
  rw [State.fetchWord_toNat]
  omega

/-- The low byte of the fetched word is the byte at PC + 1. -/
theorem State.fetchWord_toNat_mod (s : State) : s.fetchWord.toNat % 256 = (s.mem.read (s.pc.toNat + 1)).toNat := by
  have := (s.mem.read (s.pc.toNat + 1)).isLt
  rw [State.fetchWord_toNat]
  omega

/-- Addresses that agree modulo MEM_SIZE read the same byte (20_memory.md R64). -/
theorem Memory.read_congr (m : Memory) {a q : Nat} (h : a % Config.memSize = q % Config.memSize) :
    m.read a = m.read q := by
  rw [← m.read_mod a, h, m.read_mod]

/-- A write takes its address modulo MEM_SIZE (20_memory.md R64). -/
@[simp] theorem Memory.write_mod (m : Memory) (a : Nat) (v : Byte) : m.write (a % Config.memSize) v = m.write a v := by
  simp [Memory.write]

/-! ### Stores at I -/

/-- The state after a store of `bs` at I on that goes through (43_index_memory.md R223, R224). -/
def State.storedAtI (s : State) (bs : List Byte) : State :=
  s.advance.setMem (s.mem.writeBytes (s.effAddr 0) bs)

/-- A store clear of the font region goes through (43_index_memory.md R227). -/
theorem storeAtI_of_clear {s : State} {bs : List Byte} (ins : Instr) (h : ClearOfFont s bs.length) :
    storeAtI ins bs s = .next (s.storedAtI bs) := by
  have hclear : ∀ k, k < bs.length → inFont ((s.effAddr 0 + k) % Config.memSize) = false := fun k hk =>
    Bool.eq_false_iff.2 fun hf => h k hk (inFont_iff.1 hf)
  rw [storeAtI_eq, Config.fontWrite, Memory.storeBlock_fault_of_clear s.mem hclear]
  rfl

/-- Fx55 clear of the font region stores V0..Vx (43_index_memory.md R224). -/
theorem exec_ldMV_of_clear {s : State} {x : RegIx} (h : ClearOfFont s (x.toNat + 1)) :
    exec (.ldMV x) s = .next (s.storedAtI (s.regBlock x)) :=
  storeAtI_of_clear (.ldMV x) (by rwa [State.regBlock_length])

/-- Fx33 clear of the font region stores the three digits of Vx (43_index_memory.md R223). -/
theorem exec_ldBV_of_clear {s : State} {x : RegIx} (h : ClearOfFont s 3) :
    exec (.ldBV x) s = .next (s.storedAtI (bcdDigits (s.reg x))) :=
  storeAtI_of_clear (.ldBV x) h

/-- The digits of Fx33 as numbers (43_index_memory.md R223). -/
theorem bcdDigits_map_toNat (b : Byte) :
    (bcdDigits b).map BitVec.toNat = [b.toNat / 100, b.toNat / 10 % 10, b.toNat % 10] := by
  have := b.isLt
  simp only [bcdDigits, List.map_cons, List.map_nil, BitVec.toNat_ofNat, List.cons.injEq, and_true]
  omega

section storedAtI

variable (s : State) (bs : List Byte)

@[simp] theorem State.storedAtI_mem : (s.storedAtI bs).mem = s.mem.writeBytes (s.effAddr 0) bs := rfl

@[simp] theorem State.storedAtI_pc_toNat : (s.storedAtI bs).pc.toNat = pcPlus s 2 := s.advance_pc_toNat

variable {s bs} {k q : Nat} (hk : k < bs.length) (hlen : bs.length ≤ Config.memSize)
include hk hlen

/-- Byte `k` of a store at I is read back at every address that is I + k modulo MEM_SIZE. -/
theorem State.storedAtI_read (hq : s.effAddr k % Config.memSize = q % Config.memSize) :
    (s.storedAtI bs).mem.read q = bs[k] := by
  rw [← Memory.read_congr _ hq]
  exact Memory.read_writeBytes_at s.mem (s.effAddr 0) k bs hk hlen

/-- A byte stored at the address after the instruction is the high byte of the next fetch, and one stored a byte further
on its low byte (20_memory.md R76). -/
theorem State.storedAtI_fetchWord :
    (s.effAddr k % Config.memSize = pcPlus s 2 → (s.storedAtI bs).fetchWord.toNat / 256 = bs[k].toNat) ∧
    (s.effAddr k % Config.memSize = pcPlus s 3 → (s.storedAtI bs).fetchWord.toNat % 256 = bs[k].toNat) := by
  constructor <;> intro ha
  · rw [State.fetchWord_toNat_div, State.storedAtI_pc_toNat, State.storedAtI_read hk hlen]
    simpa [pcPlus] using ha
  · rw [State.fetchWord_toNat_mod, State.storedAtI_pc_toNat, State.storedAtI_read hk hlen]
    simpa [pcPlus] using ha

end storedAtI

end Sys2Proof.Machine

namespace Sys2Proof.Proofs

open Sys2Proof.Machine Sys2Proof.Claims

/-- Settles O6: the word of two bytes, with the second address reduced at the access. -/
theorem fetchIsBigEndian : Obligations.FetchIsBigEndian := by
  intro s
  rw [Memory.read_mod]
  exact s.fetchWord_toNat

/-- Settles O7: reads and writes reduce their address, and the fetch and the blocks are made of them. -/
theorem addressesWrapAtTheAccess : Obligations.AddressesWrapAtTheAccess := by
  refine ⟨fun m a => (m.read_mod a).symm, fun m a v => (m.write_mod a v).symm, fun s hpc => ?_, fun s k n hk => ?_,
    fun m a k bs hk hlen => ?_⟩
  · have hwrap : s.mem.read (Config.memSize - 1 + 1) = s.mem.read 0 := s.mem.read_congr (by decide)
    rw [State.fetchWord_toNat, hpc, hwrap]
  · have hlt : k < (s.loadBlock n).length := by rwa [State.loadBlock_length]
    rw [List.getElem?_eq_getElem hlt, State.loadBlock_getElem, Memory.read_mod]
  · rw [Memory.read_mod]
    exact m.read_writeBytes_at a k bs hk hlen

/-- Settles O8: both stores leave their block at I on (`State.storedAtI`), whose byte at the next PC, or one further on,
the next fetch reads. -/
theorem storesAreSeenByTheNextFetch : Obligations.StoresAreSeenByTheNextFetch := by
  refine fun s x => ⟨fun hclear => ⟨_, exec_ldMV_of_clear hclear, fun r hr => ?_⟩,
    fun hclear => ⟨_, exec_ldBV_of_clear hclear, fun k d hkd => ?_⟩⟩
  · have hlen : (s.regBlock x).length ≤ Config.memSize := by
      have := x.isLt
      rw [State.regBlock_length]
      simp only [Config.memSize]
      omega
    have hk : r.toNat < (s.regBlock x).length := by
      rw [State.regBlock_length]
      omega
    have hbyte : (s.regBlock x)[r.toNat] = s.reg r := by simp [State.regBlock_getElem]
    rw [← hbyte]
    exact State.storedAtI_fetchWord hk hlen
  · have hdigit : ((bcdDigits (s.reg x)).map BitVec.toNat)[k]? = some d := by
      rw [bcdDigits_map_toNat]
      simp only [List.mem_cons, Prod.mk.injEq, List.not_mem_nil, or_false] at hkd
      rcases hkd with ⟨rfl, rfl⟩ | ⟨rfl, rfl⟩ | ⟨rfl, rfl⟩ <;> rfl
    obtain ⟨hk, rfl⟩ := List.getElem?_eq_some_iff.1 hdigit
    rw [List.length_map] at hk
    rw [List.getElem_map]
    exact State.storedAtI_fetchWord hk (by rw [bcdDigits_length]; decide)

end Sys2Proof.Proofs
end

section
/-! SUPPORT. Proofs for 30_encoding.md: which words the decoder rejects, class by class, and the Step that fetches one. -/

namespace Sys2Proof

/-- The low nibble as the last four bits of the number (30_encoding.md R91). -/
theorem nField_eq_zero_iff (w : Word) : nField w = 0 ↔ w.toNat % 16 = 0 := by
  rw [← nField_toNat, ← BitVec.toNat_inj]
  rfl

/-- A conditional answer is an error exactly when its condition fails. -/
theorem ite_ok_error_iff {c : Prop} [Decidable c] {i : Instr} {e : Reject} :
    (∃ r, (if c then .ok i else .error e : Except Reject Instr) = .error r) ↔ ¬ c := by
  split <;> simp_all

/-! ### What each class rejects (30_encoding.md R97) -/

/-- Class 0x0 has the two words 00E0 and 00EE only. -/
theorem decodeClass0_error_iff (w : Word) :
    (∃ r, decodeClass0 w = .error r) ↔ w.toNat % 0x1000 ≠ 0x0E0 ∧ w.toNat % 0x1000 ≠ 0x0EE := by
  rw [← nnnField_toNat]
  unfold decodeClass0
  split <;> simp_all

/-- Class 0x8 names nine of its sixteen low nibbles; the other seven are R97's list. -/
theorem decodeClass8_error_iff (w : Word) :
    (∃ r, decodeClass8 w = .error r) ↔ w.toNat % 0x10 ∈ [0x8, 0x9, 0xA, 0xB, 0xC, 0xD, 0xF] := by
  have hlt := (nField w).isLt
  rw [← nField_toNat]
  unfold decodeClass8
  split
  case h_10 =>
    simp only [imp_false] at *
    refine iff_of_true ⟨_, rfl⟩ ?_
    simp only [List.mem_cons, List.not_mem_nil, or_false]
    omega
  all_goals simp_all

/-- Class 0xE rejects the low bytes that are neither SKP's nor SKNP's. -/
theorem decodeClassE_error_iff (w : Word) :
    (∃ r, decodeClassE w = .error r) ↔ w.toNat % 0x100 ∉ [0x9E, 0xA1] := by
  rw [← nnField_toNat]
  unfold decodeClassE
  split <;> simp_all

/-- Class 0xF rejects the low bytes that are none of its nine. -/
theorem decodeClassF_error_iff (w : Word) :
    (∃ r, decodeClassF w = .error r) ↔
      w.toNat % 0x100 ∉ [0x07, 0x0A, 0x15, 0x18, 0x1E, 0x29, 0x33, 0x55, 0x65] := by
  rw [← nnField_toNat]
  unfold decodeClassF
  split <;> simp_all

end Sys2Proof

namespace Sys2Proof.Machine

open Sys2Proof.Claims

/-- The decoder rejects exactly the words of R97's list: the split is along the class nibble. -/
theorem decode_error_iff (w : Word) : (∃ r, decode w = .error r) ↔ IllegalWord w := by
  have hlt := w.isLt
  unfold decode IllegalWord
  rw [opField_toNat]
  split
  -- class 0x0: below 0x1000 the whole word is its nnn field
  case h_1 hop =>
    have hword : w.toNat % 0x1000 = w.toNat := by omega
    simp [hop, decodeClass0_error_iff, hword]
  -- classes 0x5 and 0x9: the low nibble has to be 0
  case h_6 hop | h_10 hop =>
    rw [ite_ok_error_iff, nField_eq_zero_iff]
    simp [hop]
  -- classes 0x8, 0xE and 0xF, each with a dispatch of its own
  case h_9 hop => simp [hop, decodeClass8_error_iff]
  case h_15 hop => simp [hop, decodeClassE_error_iff]
  case h_16 =>
    simp only [imp_false] at *
    have hop : w.toNat / 0x1000 = 0xF := by omega
    simp [hop, decodeClassF_error_iff]
  -- the other classes decode every word
  all_goals next hop => simp [hop]

/-! ### The Step that fetches an illegal word -/

/-- A Step in mode Running is the fetch and execution of R123, after its event is taken off the list (log 1). -/
theorem step_of_aboutToStep {s : State} (h : AboutToStep s) : step s = executeStep s.afterEvent := by
  obtain ⟨hmode, hevent⟩ := h
  simp [step, transition, hmode, hevent]

/-- A word that does not decode raises DecodeError (40_step.md R125). -/
theorem executeStep_of_error {s : State} {r : Reject} (h : decode s.fetchWord = .error r) :
    executeStep s = .next (s.raiseAt .decodeError s.fetchWord .none) := by
  simp [executeStep, h]

/-- The next state of a Step that fetches an illegal word (40_step.md R125). -/
theorem step_of_illegalWord {s : State} (hs : AboutToStep s) (hw : IllegalWord s.fetchWord) :
    step s = .next (s.afterEvent.raiseAt .decodeError s.fetchWord .none) := by
  obtain ⟨r, hr⟩ := (decode_error_iff _).2 hw
  rw [step_of_aboutToStep hs, executeStep_of_error (s := s.afterEvent) hr, State.fetchWord_afterEvent]

end Sys2Proof.Machine

namespace Sys2Proof.Proofs

open Sys2Proof.Machine Sys2Proof.Claims

/-- Settles O3: the decoder's rejects class by class (`decode_error_iff`), and the record of `State.raiseAt`. -/
theorem illegalWordsRaiseDecodeError : Obligations.IllegalWordsRaiseDecodeError :=
  ⟨decode_error_iff, fun _ hs hw => ⟨_, _, step_of_illegalWord hs hw, rfl, rfl, rfl, rfl, rfl⟩⟩

end Sys2Proof.Proofs
end

section
/-! SUPPORT. Proofs for 41_control_flow.md: the frame of a write of PC or of the call stack, the skips, and RET with and
without a return address. -/

namespace Sys2Proof.Machine

open Sys2Proof.Claims

/-! ### Frames -/

theorem Part.same_refl (p : Part) (s : State) : p.same s s := by
  cases p
  case v | mem => exact fun _ => rfl
  all_goals exact rfl

theorem Part.same_trans {p : Part} {s t u : State} (hst : p.same s t) (htu : p.same t u) : p.same s u := by
  cases p
  case v | mem => exact fun a => (htu a).trans (hst a)
  all_goals exact Eq.trans htu hst

theorem SameExcept.refl (ps : List Part) (s : State) : SameExcept ps s s := fun p _ => p.same_refl s

theorem SameExcept.trans {ps : List Part} {s t u : State} (hst : SameExcept ps s t) (htu : SameExcept ps t u) :
    SameExcept ps s u := fun p hp => Part.same_trans (hst p hp) (htu p hp)

/-- A frame with more exceptions says less. -/
theorem SameExcept.mono {ps qs : List Part} {s t : State} (h : SameExcept ps s t) (hsub : ps ⊆ qs) :
    SameExcept qs s t := fun p hp => h p fun hmem => hp (hsub hmem)

theorem State.sameExcept_setPc (s : State) (n : Nat) : SameExcept [.pc] s (s.setPc n) := by
  intro p hp
  cases p
  case pc => simp at hp
  all_goals simp [Part.same]

theorem State.sameExcept_setStack (s : State) (l : List Word) : SameExcept [.stack] s (s.setStack l) := by
  intro p hp
  cases p
  case stack => simp at hp
  all_goals simp [Part.same]

/-! ### Writes of PC -/

/-- A later write of PC hides the advance of the fetch. -/
theorem State.setPc_advance (s : State) (n : Nat) : s.advance.setPc n = s.setPc n := rfl

theorem exec_jp (nnn : Addr12) (s : State) : exec (.jp nnn) s = .next (s.setPc nnn.toNat) := by
  rw [← addrWord_toNat]
  rfl

theorem exec_jpV0 (nnn : Addr12) (s : State) :
    exec (.jpV0 nnn) s = .next (s.setPc (nnn.toNat + (s.reg 0).toNat)) := by
  rw [← addrWord_toNat]
  rfl

/-! ### Skips -/

theorem State.sameExcept_skipIf (s : State) (c : Bool) : SameExcept [.pc] s (s.skipIf c) := by
  cases c
  case false => exact .refl _ s
  case true => exact s.sameExcept_setPc _

/-- The advance and a conditional skip are what the claims call a skip (41_control_flow.md R150). -/
theorem State.skippedIf_advance_skipIf (s : State) {c : Bool} {P : Prop} (hc : c = true ↔ P) :
    SkippedIf [] s (s.advance.skipIf c) P := by
  have hframe : SameExcept [.pc] s (s.advance.skipIf c) :=
    (s.sameExcept_setPc _).trans (s.advance.sameExcept_skipIf c)
  refine ⟨fun hP => ?_, fun hP => ?_, hframe⟩
  · rw [State.skipIf, if_pos (hc.2 hP)]
    exact s.advance_skip_pc_toNat
  · rw [State.skipIf, if_neg (mt hc.1 hP)]
    exact s.advance_pc_toNat

/-! ### RET -/

/-- RET with a return address on the stack (41_control_flow.md R151). -/
theorem exec_ret_of_concat {s : State} {rest : List Word} {ra : Word} (h : s.stack = rest ++ [ra]) :
    exec .ret s = .next ((s.setStack rest).setPc ra.toNat) := by
  have htop : s.top = some ra := by rw [State.top, h, List.getLast?_concat]
  have hdrop : s.stack.dropLast = rest := by rw [h, List.dropLast_concat]
  have hexec : exec .ret s = .next (s.advance.dropTop.setPc ra.toNat) := by
    rw [exec, execRet_eq, htop]
  rw [hexec, State.dropTop, State.advance_stack, hdrop]
  rfl

/-- RET on an empty stack (60_exceptions.md R313). -/
theorem exec_ret_of_nil {s : State} (h : s.stack = []) :
    exec .ret s = .next (s.raiseAt .stackUnderflow 0x00EE .none) := by
  have htop : s.top = none := by rw [State.top, h, List.getLast?_nil]
  rw [exec, execRet_eq, htop]
  rfl

end Sys2Proof.Machine

namespace Sys2Proof.Proofs

open Sys2Proof.Machine Sys2Proof.Claims

/-- Settles O31: both jumps are one write of PC (`exec_jp`, `exec_jpV0`). -/
theorem jumpsSetTheProgramCounter : Obligations.JumpsSetTheProgramCounter := fun s nnn =>
  ⟨⟨_, exec_jp nnn s, s.setPc_toNat _, s.sameExcept_setPc _⟩,
    ⟨_, exec_jpV0 nnn s, s.setPc_toNat _, s.sameExcept_setPc _⟩⟩

/-- Settles O32: each skip is the advance and a conditional skip on its test (`State.skippedIf_advance_skipIf`). -/
theorem skipsFollowTheirCondition : Obligations.SkipsFollowTheirCondition := fun s _ _ _ =>
  ⟨⟨_, rfl, s.skippedIf_advance_skipIf beq_iff_eq⟩, ⟨_, rfl, s.skippedIf_advance_skipIf bne_iff_ne⟩,
    ⟨_, rfl, s.skippedIf_advance_skipIf beq_iff_eq⟩, ⟨_, rfl, s.skippedIf_advance_skipIf bne_iff_ne⟩⟩

/-- Settles O34: RET on a stack with a top (`exec_ret_of_concat`) and on an empty one (`exec_ret_of_nil`). -/
theorem retPopsReturnAddress : Obligations.RetPopsReturnAddress := by
  refine fun s => ⟨fun rest ra h => ⟨_, exec_ret_of_concat h, rfl, State.setPc_toNat _ _, ?_⟩,
    fun h => ⟨_, _, exec_ret_of_nil h, rfl, rfl, rfl, rfl, rfl, rfl, rfl⟩⟩
  have hstack : SameExcept [.pc, .stack] s (s.setStack rest) := (s.sameExcept_setStack rest).mono (by simp)
  have hpc : SameExcept [.pc, .stack] (s.setStack rest) ((s.setStack rest).setPc ra.toNat) :=
    ((s.setStack rest).sameExcept_setPc _).mono (by simp)
  exact hstack.trans hpc

end Sys2Proof.Proofs
end

section
/-! SUPPORT. Proofs for 42_alu.md: the state after a write of Vx, or of Vx and then VF, and the results and flags of the
ALU as numbers. -/

namespace Sys2Proof.Machine

open Sys2Proof.Claims

/-! ### Writes of registers -/

theorem State.sameExcept_setReg (s : State) (x : RegIx) (b : Byte) : SameExcept [.v] s (s.setReg x b) := by
  intro p hp
  cases p
  case v => simp at hp
  all_goals simp [Part.same]

theorem State.sameExcept_setRegFlag (s : State) (x : RegIx) (b : Byte) (c : Bool) :
    SameExcept [.v] s (s.setRegFlag x b c) :=
  (s.sameExcept_setReg x b).trans ((s.setReg x b).sameExcept_setReg vfIx (flagByte c))

/-- The advance keeps everything but PC, so after it a frame of the registers is one of the registers and PC. -/
theorem State.sameExcept_of_advance {s t : State} (h : SameExcept [.v] s.advance t) : SameExcept [.v, .pc] s t :=
  have hadvance : SameExcept [.v, .pc] s s.advance := (s.sameExcept_setPc _).mono (by simp)
  hadvance.trans (h.mono (by simp))

/-- The advance and a write of Vx are what the claims call a register written (42_alu.md R180). -/
theorem State.regWritten_advance_setReg (s : State) (x : RegIx) (b : Byte) :
    RegWritten [] s (s.advance.setReg x b) x b :=
  ⟨State.reg_setReg_self _ x b, fun _ hr => State.reg_setReg_ne _ b hr, s.advance_pc_toNat,
    s.sameExcept_of_advance (s.advance.sameExcept_setReg x b)⟩

/-- After a result and a flag VF holds the flag, whatever the destination (42_alu.md R180). -/
theorem State.reg_setRegFlag_vf (s : State) (x : RegIx) (b : Byte) (c : Bool) :
    (s.setRegFlag x b c).reg 0xF = flagByte c := State.reg_setReg_self _ vfIx _

/-- Every register but VF sees only the result. -/
theorem State.reg_setRegFlag_ne_vf (s : State) (x : RegIx) {q : RegIx} (b : Byte) (c : Bool) (hq : q ≠ 0xF) :
    (s.setRegFlag x b c).reg q = (s.setReg x b).reg q := State.reg_setReg_ne _ _ hq

/-- The advance and a write of Vx, then VF, are what the claims call a flag written: VF is the later write, so for
x = 0xF the flag wins (42_alu.md R180). -/
theorem State.flagWritten_advance_setRegFlag (s : State) (x : RegIx) {b : Byte} {c : Bool} {r f : Nat}
    (hr : b.toNat = r) (hf : (flagByte c).toNat = f) : FlagWritten s (s.advance.setRegFlag x b c) x r f := by
  refine ⟨fun hx => ?_, ?_, fun q hqx hqf => ?_, s.advance_pc_toNat,
    s.sameExcept_of_advance (s.advance.sameExcept_setRegFlag x b c)⟩
  · rw [State.reg_setRegFlag_ne_vf _ _ _ _ hx, State.reg_setReg_self, hr]
  · rw [State.reg_setRegFlag_vf, hf]
  · rw [State.reg_setRegFlag_ne_vf _ _ _ _ hqf, State.reg_setReg_ne _ _ hqx, State.advance_reg]

/-! ### Results and flags as numbers -/

/-- A difference of bytes, with the 256 added before the subtraction (42_alu.md R188, R190). -/
theorem byte_sub_toNat (a b : Byte) : (a - b).toNat = (a.toNat + 256 - b.toNat) % 256 := by
  have := b.isLt
  rw [BitVec.toNat_sub]
  omega

/-- A right shift by one halves (42_alu.md R189). -/
theorem byte_shiftRight_one_toNat (a : Byte) : (a >>> 1).toNat = a.toNat / 2 := by
  rw [BitVec.toNat_ushiftRight, Nat.shiftRight_eq_div_pow, pow_one]

/-- A left shift by one doubles modulo 256 (42_alu.md R191). -/
theorem byte_shiftLeft_one_toNat (a : Byte) : (a <<< 1).toNat = a.toNat * 2 % 256 := by
  rw [BitVec.toNat_shiftLeft, Nat.shiftLeft_eq, pow_one]

/-- The carry of 8xy4 in VF (42_alu.md R187). -/
theorem flagByte_carryOut_toNat (a b : Byte) :
    (flagByte (carryOut a b)).toNat = if a.toNat + b.toNat > 255 then 1 else 0 := by
  simp only [flagByte_toNat, carryOut, decide_eq_true_eq, gt_iff_lt]

/-- "No borrow" in VF (42_alu.md R188, R190). -/
theorem flagByte_noBorrow_toNat (a b : Byte) :
    (flagByte (noBorrow a b)).toNat = if a.toNat ≥ b.toNat then 1 else 0 := by
  simp only [flagByte_toNat, noBorrow, decide_eq_true_eq, ge_iff_le]

/-- A bit of a byte in VF. -/
theorem flagByte_getLsbD_toNat (a : Byte) (k : Nat) : (flagByte (a.getLsbD k)).toNat = a.toNat / 2 ^ k % 2 := by
  rw [flagByte_toNat, ← Bool.cond_eq_ite]
  exact Nat.toNat_testBit a.toNat k

/-- The bit 8xy6 shifts out, in VF (42_alu.md R189). -/
theorem flagByte_lowBit_toNat (a : Byte) : (flagByte (lowBit a)).toNat = a.toNat % 2 := by
  rw [lowBit, flagByte_getLsbD_toNat, pow_zero, Nat.div_one]

/-- The bit 8xyE shifts out, in VF: a byte has no bit above bit 7 (42_alu.md R191). -/
theorem flagByte_highBit_toNat (a : Byte) : (flagByte (highBit a)).toNat = a.toNat / 128 := by
  have := a.isLt
  rw [highBit, flagByte_getLsbD_toNat]
  omega

end Sys2Proof.Machine

namespace Sys2Proof.Proofs

open Sys2Proof.Machine Sys2Proof.Claims

/-- Settles O36: each load is the advance and one write of Vx (`State.regWritten_advance_setReg`). -/
theorem loadsWriteVx : Obligations.LoadsWriteVx := fun s x _ _ =>
  ⟨⟨_, rfl, s.regWritten_advance_setReg x _⟩, ⟨_, rfl, s.regWritten_advance_setReg x _⟩,
    ⟨_, rfl, s.regWritten_advance_setReg x _⟩⟩

/-- Settles O37: the sum of bytes is modulo 256, and one write of Vx stores it. -/
theorem addImmediateWraps : Obligations.AddImmediateWraps := fun s x nn =>
  ⟨_, _, rfl, BitVec.toNat_add (s.reg x) nn, s.regWritten_advance_setReg x _⟩

/-- Settles O39: the sum modulo 256 goes to Vx, then the carry to VF (`State.flagWritten_advance_setRegFlag`). -/
theorem addSetsCarry : Obligations.AddSetsCarry := fun s x y =>
  ⟨_, rfl, s.flagWritten_advance_setRegFlag x (BitVec.toNat_add (s.reg x) (s.reg y)) (flagByte_carryOut_toNat _ _)⟩

/-- Settles O40: SUB and SUBN are one argument with the operands exchanged. -/
theorem subtractionsSetNoBorrow : Obligations.SubtractionsSetNoBorrow := fun s x _ =>
  ⟨⟨_, rfl, s.flagWritten_advance_setRegFlag x (byte_sub_toNat _ _) (flagByte_noBorrow_toNat _ _)⟩,
    ⟨_, rfl, s.flagWritten_advance_setRegFlag x (byte_sub_toNat _ _) (flagByte_noBorrow_toNat _ _)⟩⟩

/-- Settles O41: the shifted byte goes to Vx, then the bit shifted out, read before the shift, to VF. -/
theorem shiftsSetShiftedOutBit : Obligations.ShiftsSetShiftedOutBit := fun s x _ =>
  ⟨⟨_, rfl, s.flagWritten_advance_setRegFlag x (byte_shiftRight_one_toNat _) (flagByte_lowBit_toNat _)⟩,
    ⟨_, rfl, s.flagWritten_advance_setRegFlag x (byte_shiftLeft_one_toNat _) (flagByte_highBit_toNat _)⟩⟩

end Sys2Proof.Proofs
end

section
/-! SUPPORT. Proofs for 43_index_memory.md: the state after a write of I. -/

namespace Sys2Proof.Machine

open Sys2Proof.Claims

theorem State.sameExcept_setI (s : State) (w : Word) : SameExcept [.i] s (s.setI w) := by
  intro p hp
  cases p
  case i => simp at hp
  all_goals simp [Part.same]

/-- The advance and a write of I change nothing but I and PC. -/
theorem State.sameExcept_advance_setI (s : State) (w : Word) : SameExcept [.i, .pc] s (s.advance.setI w) :=
  have hpc : SameExcept [.i, .pc] s s.advance := (s.sameExcept_setPc _).mono (by simp)
  have hi : SameExcept [.i, .pc] s.advance (s.advance.setI w) := (s.advance.sameExcept_setI w).mono (by simp)
  hpc.trans hi

end Sys2Proof.Machine

namespace Sys2Proof.Proofs

open Sys2Proof.Machine Sys2Proof.Claims

/-- Settles O43: both loads are the advance and one write of I; 16 bits hold the 12-bit address (`addrWord_toNat`) and
the glyph address of every byte, so an unmasked Vx does not wrap (`glyphAddr_toNat`). -/
theorem indexLoads : Obligations.IndexLoads := fun s x nnn =>
  ⟨⟨_, rfl, addrWord_toNat nnn, s.advance_pc_toNat, s.sameExcept_advance_setI _⟩,
    ⟨_, rfl, glyphAddr_toNat (s.reg x), s.advance_pc_toNat, s.sameExcept_advance_setI _⟩⟩

end Sys2Proof.Proofs
end

section
/-! SUPPORT. Proofs for 44_display.md: the state after a write of the framebuffer. -/

namespace Sys2Proof.Machine

open Sys2Proof.Claims

theorem State.sameExcept_setFb (s : State) (f : Framebuffer) : SameExcept [.fb] s (s.setFb f) := by
  intro p hp
  cases p
  case fb => simp at hp
  all_goals simp [Part.same]

/-- The advance and a write of the framebuffer change nothing but the framebuffer and PC. -/
theorem State.sameExcept_advance_setFb (s : State) (f : Framebuffer) :
    SameExcept [.fb, .pc] s (s.advance.setFb f) :=
  have hpc : SameExcept [.fb, .pc] s s.advance := (s.sameExcept_setPc _).mono (by simp)
  have hfb : SameExcept [.fb, .pc] s.advance (s.advance.setFb f) := (s.advance.sameExcept_setFb f).mono (by simp)
  hpc.trans hfb

end Sys2Proof.Machine

namespace Sys2Proof.Proofs

open Sys2Proof.Machine Sys2Proof.Claims

/-- Settles O49: CLS is the advance and one write of the blank framebuffer, whose pixels are all 0
(`Framebuffer.pixel_blank`); the present is not among the parts written (`State.sameExcept_advance_setFb`). -/
theorem clearEmptiesTheFramebuffer : Obligations.ClearEmptiesTheFramebuffer := fun s =>
  ⟨_, rfl, Framebuffer.pixel_blank, s.advance_pc_toNat, s.sameExcept_advance_setFb _⟩

end Sys2Proof.Proofs
end

section
/-! SUPPORT. Proofs for 45_timers_input.md: the state after a write of a timer. -/

namespace Sys2Proof.Machine

open Sys2Proof.Claims

/-- What changes only one part after the advance of the fetch changes only that part and PC. -/
theorem SameExcept.of_advance {p : Part} {s t : State} (h : SameExcept [p] s.advance t) : SameExcept [p, .pc] s t :=
  have hadvance : SameExcept [p, .pc] s s.advance := (s.sameExcept_setPc _).mono (by simp)
  hadvance.trans (h.mono (by simp))

theorem State.sameExcept_setDt (s : State) (b : Byte) : SameExcept [.dt] s (s.setDt b) := by
  intro p hp
  cases p
  case dt => simp at hp
  all_goals simp [Part.same]

theorem State.sameExcept_setSt (s : State) (b : Byte) : SameExcept [.st] s (s.setSt b) := by
  intro p hp
  cases p
  case st => simp at hp
  all_goals simp [Part.same]

end Sys2Proof.Machine

namespace Sys2Proof.Proofs

open Sys2Proof.Machine Sys2Proof.Claims

/-- Settles O52: both loads are the advance and one write of the timer, whose frames compose
(`SameExcept.of_advance`). -/
theorem timerLoads : Obligations.TimerLoads := fun s x =>
  ⟨⟨_, rfl, s.advance.setDt_dt (s.reg x), s.advance_pc_toNat, (s.advance.sameExcept_setDt _).of_advance⟩,
    ⟨_, rfl, s.advance.setSt_st (s.reg x), s.advance_pc_toNat, (s.advance.sameExcept_setSt _).of_advance⟩⟩

end Sys2Proof.Proofs
end

section
/-! SUPPORT. Proofs for 30_encoding.md: the round trips between words and instructions, class by class. -/

namespace Sys2Proof

/-! ### The classes with a dispatch of their own (30_encoding.md R95) -/

theorem decode_class0 {w : Word} (h : (opField w).toNat = 0x0) : decode w = decodeClass0 w := by simp [decode, h]

theorem decode_class8 {w : Word} (h : (opField w).toNat = 0x8) : decode w = decodeClass8 w := by simp [decode, h]

theorem decode_classE {w : Word} (h : (opField w).toNat = 0xE) : decode w = decodeClassE w := by simp [decode, h]

theorem decode_classF {w : Word} (h : (opField w).toNat = 0xF) : decode w = decodeClassF w := by simp [decode, h]

/-- The decoder reads back every instruction from its word: the split is along the class of the word, and each field is
read back by the lemmas of the formats (`opField_encodeA` and after it). -/
theorem decode_encode (i : Instr) : decode (encode i) = .ok i := by
  cases i
  case cls | ret => rw [encode, decode_class0 (by simp)]; simp [decodeClass0]
  case ldVV | orVV | andVV | xorVV | addVV | sub | shr | subn | shl =>
    rw [encode, decode_class8 (by simp)]; simp [decodeClass8]
  case skp | sknp => rw [encode, decode_classE (by simp)]; simp [decodeClassE]
  case ldVDT | ldVK | ldDTV | ldSTV | addIV | ldFV | ldBV | ldMV | ldVM =>
    rw [encode, decode_classF (by simp)]; simp [decodeClassF]
  all_goals simp [encode, decode]

/-! ### A word as the encoding of its own fields -/

theorem encodeA_of_fields {w : Word} {op : BitVec 4} {nnn : Addr12} (hop : (opField w).toNat = op.toNat)
    (hnnn : nnnField w = nnn) : encodeA op nnn = w := by
  rw [← BitVec.eq_of_toNat_eq hop, ← hnnn, encodeA_fields]

theorem encodeXNN_of_fields {w : Word} {op : BitVec 4} {nn : Byte} (hop : (opField w).toNat = op.toNat)
    (hnn : (nnField w).toNat = nn.toNat) : encodeXNN op (xField w) nn = w := by
  rw [← BitVec.eq_of_toNat_eq hop, ← BitVec.eq_of_toNat_eq hnn, encodeXNN_fields]

theorem encodeXY_of_fields {w : Word} {op s : BitVec 4} (hop : (opField w).toNat = op.toNat)
    (hs : (nField w).toNat = s.toNat) : encodeXY op (xField w) (yField w) s = w := by
  rw [← BitVec.eq_of_toNat_eq hop, ← BitVec.eq_of_toNat_eq hs, encodeXY_fields]

/-! ### The word of what each class decodes to -/

theorem encode_of_decodeClass0 {w : Word} {i : Instr} (hop : (opField w).toNat = 0x0) (h : decodeClass0 w = .ok i) :
    encode i = w := by
  unfold decodeClass0 at h
  split at h <;> cases h
  all_goals next hnnn => exact encodeA_of_fields hop (BitVec.eq_of_toNat_eq hnnn)

theorem encode_of_decodeClass8 {w : Word} {i : Instr} (hop : (opField w).toNat = 0x8) (h : decodeClass8 w = .ok i) :
    encode i = w := by
  unfold decodeClass8 at h
  split at h <;> cases h
  all_goals next hn => exact encodeXY_of_fields hop hn

theorem encode_of_decodeClassE {w : Word} {i : Instr} (hop : (opField w).toNat = 0xE) (h : decodeClassE w = .ok i) :
    encode i = w := by
  unfold decodeClassE at h
  split at h <;> cases h
  all_goals next hnn => exact encodeXNN_of_fields hop hnn

theorem encode_of_decodeClassF {w : Word} {i : Instr} (hop : (opField w).toNat = 0xF) (h : decodeClassF w = .ok i) :
    encode i = w := by
  unfold decodeClassF at h
  split at h <;> cases h
  all_goals next hnn => exact encodeXNN_of_fields hop hnn

/-- A word that decodes is the word of its instruction: the split is along the class nibble of the word. -/
theorem encode_of_decode {w : Word} {i : Instr} (h : decode w = .ok i) : encode i = w := by
  unfold decode at h
  split at h
  case h_1 hop => exact encode_of_decodeClass0 hop h
  case h_9 hop => exact encode_of_decodeClass8 hop h
  case h_15 hop => exact encode_of_decodeClassE hop h
  case h_16 =>
    have hop : (opField w).toNat = 0xF := by
      have := (opField w).isLt
      simp only [imp_false] at *
      omega
    exact encode_of_decodeClassF hop h
  -- classes 0x5 and 0x9: the low nibble is 0
  case h_6 hop | h_10 hop =>
    split at h <;> cases h
    next hn => exact encodeXY_of_fields hop (congrArg BitVec.toNat hn)
  -- class 0xD: the low nibble is the row count
  case h_14 hop => cases h; exact encodeXY_of_fields hop rfl
  -- classes 0x1, 0x2, 0xA, 0xB
  case h_2 hop | h_3 hop | h_11 hop | h_12 hop => cases h; exact encodeA_of_fields hop rfl
  -- classes 0x3, 0x4, 0x6, 0x7, 0xC
  all_goals next hop => cases h; exact encodeXNN_of_fields hop rfl

end Sys2Proof

namespace Sys2Proof.Proofs

/-- Settles O1: the fields of an encoded word give back the instruction, class by class (`decode_encode`). -/
theorem decodeEncodeRoundTrip : Obligations.DecodeEncodeRoundTrip := decode_encode

/-- Settles O2: a word is the encoding of its own fields (`encodeXNN_of_fields` and its like). -/
theorem encodeOfDecodedWord : Obligations.EncodeOfDecodedWord := fun _ _ => encode_of_decode

/-- Settles O5: each word is the encoding of its instruction, which decodes to it (`decode_encode`). -/
theorem decodeOfWrittenWords : Obligations.DecodeOfWrittenWords :=
  ⟨decode_encode .cls, decode_encode (.call 0x304), decode_encode (.seVB 0xA 0x42), decode_encode (.sub 0x1 0x2),
    decode_encode (.drw 0x3 0x4 0x5), decode_encode (.ldBV 0xB)⟩

end Sys2Proof.Proofs
end

section
/-! SUPPORT. The frames of the remaining state operations, and what a query of a port leaves of the state: from it every
raised error and every write after a query takes its frame. -/

namespace Sys2Proof.Machine

open Sys2Proof.Claims

/-! ### Frames of the state operations -/

/-- Frames compose, and their exceptions add up, the later ones first. -/
theorem SameExcept.append {ps qs : List Part} {s t u : State} (hst : SameExcept ps s t) (htu : SameExcept qs t u) :
    SameExcept (qs ++ ps) s u :=
  (hst.mono (List.subset_append_right qs ps)).trans (htu.mono (List.subset_append_left qs ps))

theorem State.sameExcept_advance (s : State) : SameExcept [.pc] s s.advance := s.sameExcept_setPc _

theorem State.sameExcept_setRegBlock (s : State) (bs : List Byte) : SameExcept [.v] s (s.setRegBlock bs) := by
  intro p hp
  cases p <;> simp_all [Part.same]

theorem State.sameExcept_setMem (s : State) (m : Memory) : SameExcept [.mem] s (s.setMem m) := by
  intro p hp
  cases p <;> simp_all [Part.same]

theorem State.sameExcept_setMode (s : State) (m : Mode) : SameExcept [.mode] s (s.setMode m) := by
  intro p hp
  cases p <;> simp_all [Part.same]

theorem State.sameExcept_setKwPrev (s : State) (K : Word) : SameExcept [.kwPrev] s (s.setKwPrev K) := by
  intro p hp
  cases p <;> simp_all [Part.same]

theorem State.sameExcept_emitPresent (s : State) : SameExcept [.presented] s s.emitPresent := by
  intro p hp
  cases p <;> simp_all [Part.same]

theorem State.sameExcept_afterEvent (s : State) : SameExcept [.events] s s.afterEvent := by
  intro p hp
  cases p <;> simp_all [Part.same]

theorem State.sameExcept_raise (s : State) (k : ErrorKind) (pc word : Option Word) (info : ErrorInfo) :
    SameExcept [.mode, .err] s (s.raise k pc word info) := by
  intro p hp
  cases p <;> simp_all [Part.same]

theorem State.sameExcept_sampleKeys (s : State) : SameExcept [.keysIn, .draws] s s.sampleKeys.2 := by
  intro p hp
  cases p <;> simp_all [Part.same]

theorem State.sameExcept_drawRandom (s : State) : SameExcept [.randIn, .draws] s s.drawRandom.2 := by
  intro p hp
  cases p <;> simp_all [Part.same]

theorem State.sameExcept_askRenderer (s : State) : SameExcept [.presentIn, .draws] s s.askRenderer.2 := by
  intro p hp
  cases p <;> simp_all [Part.same]

/-- Error entry over a frame is what the claims call halted (60_exceptions.md R316). -/
theorem SameExcept.haltedWith_raise {ps : List Part} {s q : State} (h : SameExcept ps s q) (k : ErrorKind)
    (pc word : Option Word) (info : ErrorInfo) :
    HaltedWith ps s (q.raise k pc word info) k k.code pc word info :=
  ⟨rfl, rfl, h.append (q.sameExcept_raise k pc word info)⟩

/-! ### Queries -/

/-- `q` is `s` after at most one query of a port, whose answer came off the listed parts (00_scope.md R10). -/
inductive Queried (s : State) : List Part → State → Prop
  | none : Queried s [] s
  | keys : Queried s [.keysIn, .draws] s.sampleKeys.2
  | rand : Queried s [.randIn, .draws] s.drawRandom.2
  | renderer : Queried s [.presentIn, .draws] s.askRenderer.2

namespace Queried

variable {s q t : State} {ps : List Part} (h : Queried s ps q)
include h

theorem sameExcept : SameExcept ps s q := by
  cases h
  case none => exact .refl _ s
  case keys => exact s.sameExcept_sampleKeys
  case rand => exact s.sameExcept_drawRandom
  case renderer => exact s.sameExcept_askRenderer

theorem pc_eq : q.pc = s.pc := by cases h <;> simp

theorem mem_eq : q.mem = s.mem := by cases h <;> simp

theorem stack_eq : q.stack = s.stack := by cases h <;> simp

theorem reg_eq (r : RegIx) : q.reg r = s.reg r := by cases h <;> simp

theorem pcPlus_eq (k : Nat) : pcPlus q k = pcPlus s k := by rw [pcPlus, h.pc_eq, pcPlus]

/-- A query changes the ports only. -/
theorem subset_ports : ps ⊆ [.keysIn, .randIn, .presentIn, .draws] := by cases h <;> simp

/-- An error raised after a query has the address of the instruction, and takes the answer (60_exceptions.md R316). -/
theorem haltedWith (k : ErrorKind) (w : Word) (info : ErrorInfo) :
    HaltedWith ps s (q.raiseAt k w info) k k.code (some s.pc) (some w) info := by
  rw [← h.pc_eq]
  exact h.sameExcept.haltedWith_raise k (some q.pc) (some w) info

/-- What writes Vx after a query writes Vx, and takes the answer. -/
theorem regWritten {x : RegIx} {b : Byte} (ht : RegWritten [] q t x b) : RegWritten ps s t x b := by
  obtain ⟨hx, hr, hpc, hframe⟩ := ht
  refine ⟨hx, fun r hne => (hr r hne).trans (h.reg_eq r), hpc.trans (h.pcPlus_eq 2),
    h.sameExcept.append hframe⟩

/-- What skips after a query skips, and takes the answer. -/
theorem skippedIf {c : Prop} (ht : SkippedIf [] q t c) : SkippedIf ps s t c := by
  obtain ⟨htaken, hnot, hframe⟩ := ht
  refine ⟨fun hc => (htaken hc).trans (h.pcPlus_eq 4), fun hc => (hnot hc).trans (h.pcPlus_eq 2),
    h.sameExcept.append hframe⟩

end Queried

end Sys2Proof.Machine
end

section
/-! SUPPORT. Proofs for 41_control_flow.md and 42_alu.md: CALL with and without room on the stack, the RET after it, the
bitwise operations and the random draw. -/

namespace Sys2Proof.Machine

open Sys2Proof.Claims

/-! ### CALL and RET -/

/-- CALL with room on the stack (41_control_flow.md R153). -/
theorem exec_call_of_room {s : State} {nnn : Addr12} (h : s.stack.length < Config.stackDepth) :
    exec (.call nnn) s = .next ((s.push s.advance.pc).setPc nnn.toNat) := by
  rw [exec, execCall_eq, if_neg (Nat.not_le.2 h), addrWord_toNat]
  rfl

/-- CALL on a full stack (60_exceptions.md R317). -/
theorem exec_call_of_full {s : State} {nnn : Addr12} (h : Config.stackDepth ≤ s.stack.length) :
    exec (.call nnn) s = .next (s.raiseAt .stackOverflow (encode (.call nnn)) .none) := by
  rw [exec, execCall_eq, if_pos h]

/-- A write of the stack and then of PC changes nothing else. -/
theorem State.sameExcept_setStack_setPc (s : State) (l : List Word) (n : Nat) :
    SameExcept [.pc, .stack] s ((s.setStack l).setPc n) :=
  ((s.sameExcept_setStack l).append ((s.setStack l).sameExcept_setPc n)).mono (by simp)

/-! ### RND -/

theorem exec_rnd_of_value {s : State} {x : RegIx} {nn r : Byte} (h : s.drawRandom.1 = .value r) :
    exec (.rnd x nn) s = .next (s.drawRandom.2.advance.setReg x (r &&& nn)) := by
  rw [exec, execRnd_eq, h]

theorem exec_rnd_of_failure {s : State} {x : RegIx} {nn : Byte} (h : s.drawRandom.1 = .failure) :
    exec (.rnd x nn) s =
      .next (s.drawRandom.2.raiseAt .capabilityError (encode (.rnd x nn)) (.collaborator .random)) := by
  rw [exec, execRnd_eq, h]

end Sys2Proof.Machine

namespace Sys2Proof.Proofs

open Sys2Proof.Machine Sys2Proof.Claims

/-- Settles O33: CALL with room (`exec_call_of_room`) and on a full stack (`exec_call_of_full`). -/
theorem callPushesReturnAddress : Obligations.CallPushesReturnAddress := fun s _ =>
  ⟨fun h => ⟨_, s.advance.pc, exec_call_of_room h, rfl, s.advance_pc_toNat, State.setPc_toNat _ _,
      s.sameExcept_setStack_setPc _ _⟩,
    fun h => ⟨_, exec_call_of_full h, Queried.none.haltedWith _ _ _⟩⟩

/-- Settles O35: the CALL leaves its return address as the top of the stack, and RET pops it; it is below MEM_SIZE, so
the write of PC does not reduce it further. -/
theorem returnUndoesCall : Obligations.ReturnUndoesCall := by
  intro s t u nnn hroom ht hstack
  cases (exec_call_of_room hroom).symm.trans ht
  refine ⟨_, exec_ret_of_concat hstack, rfl, ?_⟩
  rw [State.setPc_toNat, State.advance_pc_toNat, Nat.mod_mod, pcPlus]

/-- Settles O38: each operation is the advance and one write of Vx, and acts on each bit. -/
theorem logicIsBitwise : Obligations.LogicIsBitwise := fun s x _ =>
  ⟨⟨_, _, rfl, s.regWritten_advance_setReg x _, fun _ _ => BitVec.getLsbD_or⟩,
    ⟨_, _, rfl, s.regWritten_advance_setReg x _, fun _ _ => BitVec.getLsbD_and⟩,
    ⟨_, _, rfl, s.regWritten_advance_setReg x _, fun _ _ => BitVec.getLsbD_xor⟩⟩

/-- Settles O42: one draw, then the advance and one write of Vx, or the error of the failed draw. -/
theorem randomMasksTheDraw : Obligations.RandomMasksTheDraw := fun s x _ =>
  ⟨fun _ h => ⟨_, exec_rnd_of_value h, s.drawRandom_randIn,
      Queried.rand.regWritten (s.drawRandom.2.regWritten_advance_setReg x _)⟩,
    fun h => ⟨_, exec_rnd_of_failure h, Queried.rand.haltedWith _ _ _⟩⟩

end Sys2Proof.Proofs
end

section
/-! SUPPORT. Proofs for 43_index_memory.md: ADD I, Vx, the store of a block at I that goes through or hits the font
region, and the load of one. -/

namespace Sys2Proof.Machine

open Sys2Proof.Claims

/-! ### Stores at I -/

/-- The store check finds the first target in the font region (43_index_memory.md R227). -/
theorem fontTarget_of_first {s : State} {n a : Nat} (h : FirstFontTarget s n a) :
    fontTarget (s.effAddr 0) n = some a := by
  obtain ⟨k, hk, rfl, hfont, hfirst⟩ := h
  cases hfound : fontTarget (s.effAddr 0) n with
  | none => exact nomatch (inFont_iff.2 hfont).symm.trans (fontTarget_eq_none.1 hfound k hk)
  | some t =>
    obtain ⟨j, -, rfl, hj, hjfirst⟩ := fontTarget_eq_some hfound
    rcases Nat.lt_trichotomy j k with hlt | rfl | hgt
    · exact absurd (inFont_iff.1 hj) (hfirst j hlt)
    · rfl
    · exact nomatch (inFont_iff.2 hfont).symm.trans (hjfirst k hgt)

/-- A store that hits the font region raises FontWrite (43_index_memory.md R227). -/
theorem storeAtI_of_target {s : State} {bs : List Byte} {a : Nat} (ins : Instr)
    (h : FirstFontTarget s bs.length a) :
    storeAtI ins bs s = .next (s.raiseAt .fontWrite (encode ins) (.address (BitVec.ofNat 16 a))) := by
  rw [storeAtI_eq, Config.fontWrite, Memory.storeBlock, fontTarget_of_first h]

/-- The offending address fits the record's 16 bits. -/
theorem toNat_ofNat_of_firstFontTarget {s : State} {n a : Nat} (h : FirstFontTarget s n a) :
    (BitVec.ofNat 16 a).toNat = a := by
  obtain ⟨_, _, _, ⟨-, hlt⟩, _⟩ := h
  simp only [Config.fontBase, Config.fontSize] at hlt
  exact Nat.mod_eq_of_lt (by omega)

/-- A store at I changes nothing but memory and PC (43_index_memory.md R223, R224). -/
theorem State.sameExcept_storedAtI (s : State) (bs : List Byte) : SameExcept [.pc, .mem] s (s.storedAtI bs) :=
  (s.advance.sameExcept_setMem _).of_advance.mono (by simp)

/-- The state after a store at I is what the claims call bytes stored. -/
theorem State.bytesStored_storedAtI {s : State} {bs : List Byte} {n : Nat} {byte : Nat → Nat} (hn : bs.length = n)
    (hlen : n ≤ Config.memSize) (hbyte : ∀ k, (hk : k < bs.length) → bs[k].toNat = byte k) :
    BytesStored s (s.storedAtI bs) n byte := by
  subst hn
  refine ⟨fun k hk => ?_, fun a ha => ?_, s.storedAtI_pc_toNat bs, s.sameExcept_storedAtI bs⟩
  · rw [State.storedAtI_read hk hlen rfl, hbyte k hk]
  · exact s.mem.read_writeBytes_other _ _ _ ha

/-- The block V0..Vx is no longer than memory. -/
theorem regCount_le_memSize (x : RegIx) : x.toNat + 1 ≤ Config.memSize := by
  have := x.isLt
  simp only [Config.memSize]
  omega

/-- The digits of Fx33 one by one (43_index_memory.md R223). -/
theorem bcdDigits_getElem_toNat (b : Byte) (k : Nat) (hk : k < (bcdDigits b).length) :
    (bcdDigits b)[k].toNat = if k = 0 then b.toNat / 100 else if k = 1 then b.toNat / 10 % 10 else b.toNat % 10 := by
  have hdigit : (bcdDigits b)[k].toNat = ((bcdDigits b).map BitVec.toNat)[k]'(by rwa [List.length_map]) := by
    rw [List.getElem_map]
  rw [hdigit]
  simp only [bcdDigits_map_toNat]
  match k, hk with
  | 0, _ | 1, _ | 2, _ => rfl

/-! ### Loads from I -/

/-- A register after Fx65: the loaded byte up to Vx, unchanged above (43_index_memory.md R225). -/
theorem State.reg_setRegBlock_loadBlock (s : State) (x r : RegIx) :
    (s.advance.setRegBlock (s.loadBlock (x.toNat + 1))).reg r =
      if r.toNat ≤ x.toNat then s.mem.read (s.effAddr r.toNat) else s.reg r := by
  rw [State.reg_setRegBlock, State.advance_reg]
  split
  case isTrue hle =>
    have hlt : r.toNat < (s.loadBlock (x.toNat + 1)).length := by rw [State.loadBlock_length]; omega
    rw [List.getD_eq_getElem _ _ hlt, State.loadBlock_getElem, State.effAddr]
  case isFalse hgt => exact List.getD_eq_default _ _ (by rw [State.loadBlock_length]; omega)

end Sys2Proof.Machine

namespace Sys2Proof.Proofs

open Sys2Proof.Machine Sys2Proof.Claims

/-- Settles O44: the sum of words is modulo 2^16, and one write of I stores it. -/
theorem addIndexWraps : Obligations.AddIndexWraps := by
  refine fun s x => ⟨_, rfl, ?_, s.advance_pc_toNat, s.sameExcept_advance_setI _⟩
  have := (s.reg x).isLt
  rw [State.setI_i, BitVec.toNat_add, BitVec.toNat_setWidth, Nat.mod_eq_of_lt (by omega : (s.reg x).toNat < 2 ^ 16)]

/-- Settles O45: the store of the three digits goes through (`exec_ldBV_of_clear`), or its check finds the first target
in the font region (`storeAtI_of_target`). -/
theorem bcdStoresDigits : Obligations.BcdStoresDigits := fun s x =>
  ⟨fun hclear => ⟨_, exec_ldBV_of_clear hclear,
      State.bytesStored_storedAtI (bcdDigits_length _) (by decide) (bcdDigits_getElem_toNat _)⟩,
    fun _ ha => ⟨_, _, storeAtI_of_target (.ldBV x) ha, toNat_ofNat_of_firstFontTarget ha,
      Queried.none.haltedWith _ _ _⟩⟩

/-- Settles O46: the store of V0..Vx goes through (`exec_ldMV_of_clear`), or its check finds the first target in the
font region (`storeAtI_of_target`). -/
theorem blockStoreWritesRegisters : Obligations.BlockStoreWritesRegisters := by
  refine fun s x => ⟨fun hclear => ⟨_, exec_ldMV_of_clear hclear, ?_⟩, fun a ha => ⟨_, _, storeAtI_of_target (.ldMV x)
    (by rwa [State.regBlock_length]), toNat_ofNat_of_firstFontTarget ha, Queried.none.haltedWith _ _ _⟩⟩
  exact State.bytesStored_storedAtI (s.regBlock_length x) (regCount_le_memSize x)
    fun k hk => by rw [State.regBlock_getElem]

/-- Settles O47: every register of the loaded block, and every one above it (`State.reg_setRegBlock_loadBlock`). -/
theorem blockLoadReadsRegisters : Obligations.BlockLoadReadsRegisters := fun s x =>
  ⟨_, rfl, fun r hr => by rw [State.reg_setRegBlock_loadBlock, if_pos hr],
    fun r hr => by rw [State.reg_setRegBlock_loadBlock, if_neg (Nat.not_le.2 hr)], s.advance_pc_toNat,
    s.sameExcept_of_advance (s.advance.sameExcept_setRegBlock _)⟩

/-- Settles O48: the load reads back, register by register, the byte the store put at I + r. -/
theorem storeThenLoadRestoresRegisters : Obligations.StoreThenLoadRestoresRegisters := by
  intro s t u x hclear ht hi hmem
  cases (exec_ldMV_of_clear hclear).symm.trans ht
  refine ⟨_, rfl, fun r hr => ?_⟩
  have hk : r.toNat < (s.regBlock x).length := by rw [State.regBlock_length]; omega
  have hlen : (s.regBlock x).length ≤ Config.memSize := by
    rw [State.regBlock_length]; exact regCount_le_memSize x
  calc (u.advance.setRegBlock (u.loadBlock (x.toNat + 1))).reg r
      = u.mem.read (u.effAddr r.toNat) := by rw [State.reg_setRegBlock_loadBlock, if_pos hr]
    _ = (s.storedAtI (s.regBlock x)).mem.read (s.effAddr r.toNat) := by
      rw [← hmem r.toNat hr, State.effAddr, hi, State.effAddr]
    _ = (s.regBlock x)[r.toNat] := State.storedAtI_read hk hlen rfl
    _ = s.reg r := by simp [State.regBlock_getElem]

end Sys2Proof.Proofs
end

section
/-! SUPPORT. Proofs for 44_display.md: what the blit of DRW leaves in every pixel, and when it reports a collision. -/

namespace Sys2Proof.Machine

open Sys2Proof.Claims

/-- The framebuffer and the collision of DRW Vx, Vy, n (44_display.md R252). -/
def State.drawn (s : State) (x y : RegIx) (n : Nibble) : Framebuffer × Bool :=
  blit (s.reg x).toNat (s.reg y).toNat (s.loadBlock n.toNat) s.fb

/-- The state after a DRW whose present succeeds: the blit, the flag, the present, each after the one before. -/
def State.afterDraw (s : State) (x y : RegIx) (n : Nibble) : State :=
  ((s.askRenderer.2.advance.setFb (s.drawn x y n).1).setReg vfIx (flagByte (s.drawn x y n).2)).emitPresent

theorem exec_drw_of_value {s : State} {x y : RegIx} {n : Nibble} (h : s.askRenderer.1 = .value ()) :
    exec (.drw x y n) s = .next (s.afterDraw x y n) := by
  rw [exec, execDrw_eq, h]
  rfl

theorem exec_drw_of_failure {s : State} {x y : RegIx} {n : Nibble} (h : s.askRenderer.1 = .failure) :
    exec (.drw x y n) s =
      .next (s.askRenderer.2.raiseAt .capabilityError (encode (.drw x y n)) (.collaborator .renderer)) := by
  rw [exec, execDrw_eq, h]

section drawn

variable (s : State) (x y : RegIx) (n : Nibble)

/-- A sprite has fewer rows than the display (44_display.md R252). -/
theorem State.loadBlock_length_le : (s.loadBlock n.toNat).length ≤ Config.dispH := by
  have := n.isLt
  rw [State.loadBlock_length]
  simp only [Config.dispH]
  omega

/-- Row `r` of the sprite at I. -/
theorem State.loadBlock_getD {r m : Nat} (hr : r < m) : (s.loadBlock m).getD r 0 = s.mem.read (s.effAddr r) := by
  have hlt : r < (s.loadBlock m).length := by rwa [State.loadBlock_length]
  rw [List.getD_eq_getElem _ _ hlt, State.loadBlock_getElem, State.effAddr]

/-- Each pixel is XORed with the bit of the sprite aimed at it (44_display.md R252, R254). -/
theorem State.drawn_pixel (px py : Nat) :
    (s.drawn x y n).1.pixel px py = (s.fb.pixel px py != spriteAt s x y n px py) := by
  rw [State.drawn, blit, (drawRows_spec _ _ _ _ (s.loadBlock_length_le n)).1, State.loadBlock_length]
  by_cases hr : rowAt (s.reg y).toNat py < n.toNat
  · rw [s.loadBlock_getD hr]
    rfl
  · simp [spriteAt, hr]

/-- A collision is a set bit of the sprite that meets a pixel that was 1 (44_display.md R256). -/
theorem State.drawn_collision_iff :
    (s.drawn x y n).2 = true ↔ ∃ r c, r < n.toNat ∧ c < 8 ∧ (s.mem.read (s.effAddr r)).getLsbD (7 - c) = true ∧
      s.fb.pixel ((s.reg x).toNat + c) ((s.reg y).toNat + r) = true := by
  rw [State.drawn, blit, (drawRows_spec _ _ _ _ (s.loadBlock_length_le n)).2, State.loadBlock_length]
  simp only [Bool.false_eq_true, false_or]
  refine exists_congr fun r => exists_congr fun c => and_congr_right fun hr => ?_
  rw [s.loadBlock_getD hr]
  rfl

variable {n}

/-- The bit of row `r` and column `c` is aimed at the pixel `c` right of and `r` below the start (44_display.md
R252). -/
theorem spriteAt_add {r c : Nat} (hr : r < n.toNat) (hc : c < 8) :
    spriteAt s x y n ((s.reg x).toNat + c) ((s.reg y).toNat + r) = (s.mem.read (s.effAddr r)).getLsbD (7 - c) := by
  have hn := n.isLt
  have hcol : colAt (s.reg x).toNat ((s.reg x).toNat + c) = c := (colAt_eq (by simp only [Config.dispW]; omega)).1 rfl
  have hrow : rowAt (s.reg y).toNat ((s.reg y).toNat + r) = r := (rowAt_eq (by simp only [Config.dispH]; omega)).1 rfl
  simp only [colAt, rowAt] at hcol hrow
  simp only [spriteAt, hcol, hrow, hr, hc, and_self, decide_true, Bool.true_and]

/-- A pixel with a set bit aimed at it is one of the sprite's: the bit has a row and a column. -/
theorem exists_of_spriteAt {px py : Nat} (h : spriteAt s x y n px py = true) :
    ∃ r c, r < n.toNat ∧ c < 8 ∧ (s.mem.read (s.effAddr r)).getLsbD (7 - c) = true ∧
      ∀ fb : Framebuffer, fb.pixel ((s.reg x).toNat + c) ((s.reg y).toNat + r) = fb.pixel px py := by
  simp only [spriteAt, Bool.and_eq_true, decide_eq_true_eq] at h
  obtain ⟨⟨hc, hr⟩, hbit⟩ := h
  refine ⟨rowAt (s.reg y).toNat py, colAt (s.reg x).toNat px, hr, hc, hbit, fun fb => ?_⟩
  have hcol : px % Config.dispW = ((s.reg x).toNat + colAt (s.reg x).toNat px) % Config.dispW :=
    (colAt_eq (Nat.mod_lt _ (by decide))).2 rfl
  have hrow : py % Config.dispH = ((s.reg y).toNat + rowAt (s.reg y).toNat py) % Config.dispH :=
    (rowAt_eq (Nat.mod_lt _ (by decide))).2 rfl
  rw [← fb.pixel_mod px py, hcol, hrow, fb.pixel_mod]

/-- A collision is a pixel that went from 1 to 0 (44_display.md R256). -/
theorem State.drawn_collision_iff_erased :
    (s.drawn x y n).2 = true ↔ ∃ px py, px < Config.dispW ∧ py < Config.dispH ∧ s.fb.pixel px py = true ∧
      (s.drawn x y n).1.pixel px py = false := by
  rw [State.drawn_collision_iff]
  constructor
  · rintro ⟨r, c, hr, hc, hbit, hpixel⟩
    refine ⟨((s.reg x).toNat + c) % Config.dispW, ((s.reg y).toNat + r) % Config.dispH, Nat.mod_lt _ (by decide),
      Nat.mod_lt _ (by decide), ?_, ?_⟩
    · rwa [Framebuffer.pixel_mod]
    · rw [Framebuffer.pixel_mod, State.drawn_pixel, spriteAt_add s x y hr hc, hbit, hpixel]
      rfl
  · rintro ⟨px, py, -, -, hbefore, hafter⟩
    rw [State.drawn_pixel, hbefore, Bool.true_bne, Bool.not_eq_false'] at hafter
    obtain ⟨r, c, hr, hc, hbit, hpixel⟩ := exists_of_spriteAt s x y hafter
    exact ⟨r, c, hr, hc, hbit, by rw [hpixel, hbefore]⟩

/-! ### The state after a draw -/

variable (n)

theorem State.afterDraw_fb : (s.afterDraw x y n).fb = (s.drawn x y n).1 := rfl

theorem State.afterDraw_presented : (s.afterDraw x y n).presented = s.presented ++ [(s.afterDraw x y n).fb] := by
  simp [State.afterDraw]

theorem State.afterDraw_pc_toNat : (s.afterDraw x y n).pc.toNat = pcPlus s 2 := by
  simp [State.afterDraw, pcPlus]

theorem State.afterDraw_presentIn : (s.afterDraw x y n).presentIn = s.presentIn.tail := s.askRenderer_presentIn

theorem State.afterDraw_reg {r : RegIx} (hr : r ≠ vfIx) : (s.afterDraw x y n).reg r = s.reg r := by
  simp [State.afterDraw, State.reg_setReg_ne _ _ hr]

/-- VF after a draw is its collision (44_display.md R256). -/
theorem State.afterDraw_vf : (s.afterDraw x y n).reg 0xF = flagByte (s.drawn x y n).2 :=
  State.reg_setReg_self _ vfIx _

theorem State.sameExcept_afterDraw :
    SameExcept [.v, .pc, .fb, .presented, .presentIn, .draws] s (s.afterDraw x y n) := by
  have hadvance := s.sameExcept_askRenderer.append (State.sameExcept_advance _)
  have hfb := hadvance.append (State.sameExcept_setFb _ (s.drawn x y n).1)
  have hflag := hfb.append (State.sameExcept_setReg _ vfIx (flagByte (s.drawn x y n).2))
  exact (hflag.append (State.sameExcept_emitPresent _)).mono (by simp)

end drawn

theorem flagByte_eq_zero_or_one (c : Bool) : flagByte c = 0 ∨ flagByte c = 1 := by cases c <;> simp [flagByte]

theorem flagByte_eq_one_iff (c : Bool) : flagByte c = 1 ↔ c = true := by cases c <;> simp [flagByte]

end Sys2Proof.Machine

namespace Sys2Proof.Proofs

open Sys2Proof.Machine Sys2Proof.Claims

/-- Settles O50: the pixels (`State.drawn_pixel`) and the collision (`State.drawn_collision_iff_erased`) of the blit,
after one query of the renderer; or the error of the failed present. -/
theorem drawXorsSpriteAndReportsCollision : Obligations.DrawXorsSpriteAndReportsCollision := by
  refine fun s x y n => ⟨fun h => ⟨_, exec_drw_of_value h, fun px py _ _ => s.drawn_pixel x y n px py, ?_, ?_,
    fun r hr => s.afterDraw_reg x y n hr, s.afterDraw_presented x y n, s.afterDraw_presentIn x y n,
    s.afterDraw_pc_toNat x y n, s.sameExcept_afterDraw x y n⟩,
    fun h => ⟨_, exec_drw_of_failure h, Queried.renderer.haltedWith _ _ _⟩⟩
  · rw [State.afterDraw_vf]
    exact flagByte_eq_zero_or_one _
  · rw [State.afterDraw_vf, flagByte_eq_one_iff, State.afterDraw_fb]
    exact s.drawn_collision_iff_erased x y

/-- Settles O51: XOR with the same sprite twice is the identity, and the second draw collides where a set bit met a 1 of
the first draw's framebuffer, a 0 before it. -/
theorem drawingTwiceErases : Obligations.DrawingTwiceErases := by
  intro s t u w x y n hs ht hfb hx hy hi hmem hu hw
  cases (exec_drw_of_value hs).symm.trans ht
  cases (exec_drw_of_value hu).symm.trans hw
  have hsprite : ∀ px py, spriteAt u x y n px py = spriteAt s x y n px py := fun px py => by
    simp only [spriteAt, State.effAddr, hx, hy, hi, hmem]
  have hfirst : ∀ px py, u.fb.pixel px py = (s.fb.pixel px py != spriteAt s x y n px py) := fun px py => by
    rw [hfb, State.afterDraw_fb, State.drawn_pixel]
  constructor
  · intro px py
    rw [State.afterDraw_fb, State.drawn_pixel, hsprite, hfirst]
    simp
  · rw [State.afterDraw_vf, flagByte_eq_one_iff, State.drawn_collision_iff]
    refine exists_congr fun r => exists_congr fun c => and_congr_right fun hr => and_congr_right fun hc => ?_
    rw [hmem, hx, hy, State.effAddr, hi, hfirst, spriteAt_add s x y hr hc]
    refine and_congr_right fun hbit => ?_
    simp only [State.effAddr] at hbit ⊢
    simp [hbit]

end Sys2Proof.Proofs
end

section
/-! SUPPORT. Proofs for 45_timers_input.md: the key skips and the entry of the key wait, with an answer of the input
source and with a failed query. -/

namespace Sys2Proof.Machine

open Sys2Proof.Claims

section keySkip

variable {s : State} {k : Byte} (ins : Instr) (d : Bool)

/-- A key skip with a sample skips on key `k` (45_timers_input.md R284, R285). -/
theorem keySkip_of_value {K : Word} (hk : k.toNat ≤ 0xF) (h : s.sampleKeys.1 = .value K) :
    keySkip ins k d s = .next (s.sampleKeys.2.advance.skipIf (keyDown K k == d)) := by
  rw [keySkip_eq, if_pos ((keyInRange_iff k).2 hk), h]

theorem keySkip_of_failure (hk : k.toNat ≤ 0xF) (h : s.sampleKeys.1 = .failure) :
    keySkip ins k d s = .next (s.sampleKeys.2.raiseAt .capabilityError (encode ins) (.collaborator .input)) := by
  rw [keySkip_eq, if_pos ((keyInRange_iff k).2 hk), h]

/-- A key index above 0xF raises KeyIndexRange before any query (45_timers_input.md R283). -/
theorem keySkip_of_outOfRange (hk : 0xF < k.toNat) :
    keySkip ins k d s = .next (s.raiseAt .keyIndexRange (encode ins) (.key k)) := by
  rw [keySkip_eq, if_neg fun h => Nat.not_le.2 hk ((keyInRange_iff k).1 h)]

end keySkip

theorem exec_ldVK_of_value {s : State} {K : Word} (x : RegIx) (h : s.sampleKeys.1 = .value K) :
    exec (.ldVK x) s = .next ((s.sampleKeys.2.advance.setKwPrev K).setMode (.awaitingKey x)) := by
  rw [exec, execLdVK_eq, h]

theorem exec_ldVK_of_failure {s : State} (x : RegIx) (h : s.sampleKeys.1 = .failure) :
    exec (.ldVK x) s = .next (s.sampleKeys.2.raiseAt .capabilityError (encode (.ldVK x)) (.collaborator .input)) := by
  rw [exec, execLdVK_eq, h]

/-- The entry of the key wait changes nothing but what it writes and the keys port (45_timers_input.md R286). -/
theorem State.sameExcept_keyWaitEntry (s : State) (K : Word) (m : Mode) :
    SameExcept [.kwPrev, .mode, .pc, .keysIn, .draws] s ((s.sampleKeys.2.advance.setKwPrev K).setMode m) := by
  have hadvance := s.sameExcept_sampleKeys.append (State.sameExcept_advance _)
  have hsample := hadvance.append (State.sameExcept_setKwPrev _ K)
  exact (hsample.append (State.sameExcept_setMode _ m)).mono (by simp)

end Sys2Proof.Machine

namespace Sys2Proof.Proofs

open Sys2Proof.Machine Sys2Proof.Claims

/-- Settles O53: SKP and SKNP are one key skip with the two wanted states of the key; a sample (`keySkip_of_value`), a
failed query (`keySkip_of_failure`) and an index out of range (`keySkip_of_outOfRange`). -/
theorem keySkipsSampleOnce : Obligations.KeySkipsSampleOnce := by
  refine fun s x => ⟨fun hk K h => ?_, fun hk h => ?_, fun hk => ?_⟩
  · have hskip : ∀ d : Bool, SkippedIf [.keysIn, .draws] s
        (s.sampleKeys.2.advance.skipIf (keyDown K (s.reg x) == d)) (K.getLsbD (s.reg x).toNat = d) := fun d =>
      Queried.keys.skippedIf (State.skippedIf_advance_skipIf _ beq_iff_eq)
    exact ⟨⟨_, keySkip_of_value _ _ hk h, by simp, hskip true⟩, ⟨_, keySkip_of_value _ _ hk h, by simp, hskip false⟩⟩
  · exact ⟨⟨_, keySkip_of_failure _ _ hk h, Queried.keys.haltedWith _ _ _⟩,
      ⟨_, keySkip_of_failure _ _ hk h, Queried.keys.haltedWith _ _ _⟩⟩
  · exact ⟨⟨_, keySkip_of_outOfRange _ _ hk, Queried.none.haltedWith _ _ _⟩,
      ⟨_, keySkip_of_outOfRange _ _ hk, Queried.none.haltedWith _ _ _⟩⟩

/-- Settles O54: the entry with a sample (`exec_ldVK_of_value`), whatever keys are down in it, and with a failed query
(`exec_ldVK_of_failure`). -/
theorem keyWaitEntry : Obligations.KeyWaitEntry := fun s x =>
  ⟨fun K h => ⟨_, exec_ldVK_of_value x h, rfl, rfl, s.sampleKeys_keysIn,
      (State.advance_pc_toNat _).trans (Queried.keys.pcPlus_eq 2), s.sameExcept_keyWaitEntry K _⟩,
    fun h => ⟨_, exec_ldVK_of_failure x h, Queried.keys.haltedWith _ _ _⟩⟩

end Sys2Proof.Proofs
end

section
/-! SUPPORT. What an instruction can do, said once (`exec_spec`): it raises one of its errors and leaves everything but
the port it queried, or it completes, with PC as tabled, its frame, its stores, and the mode. -/

namespace Sys2Proof.Machine

open Sys2Proof.Claims

/-! ### The two ways an instruction ends -/

/-- The instruction raised one of its errors, after at most one query (60_exceptions.md R316, R320). -/
def Raised (i : Instr) (s t : State) : Prop :=
  ∃ ps q k info, Queried s ps q ∧ ps ⊆ mayWrite i ∧ k ∈ mayRaise i ∧ t = q.raiseAt k (encode i) info

/-- The memory is that of `s` after the stores of the instruction at I, all clear of the font region. -/
def StoredClear (i : Instr) (s t : State) : Prop :=
  ∃ bs : List Byte, bs.length = storedBytes i ∧ ClearOfFont s bs.length ∧ t.mem = s.mem.writeBytes (s.effAddr 0) bs

/-- The call stack is unchanged, popped, or pushed with room and the address of the next instruction. -/
def StackMoved (s t : State) : Prop :=
  t.stack = s.stack ∨ t.stack = s.stack.dropLast ∨
    (s.stack.length < Config.stackDepth ∧ t.stack = s.stack ++ [s.advance.pc])

/-- What every instruction that raises no error does and leaves unchanged (10_state.md R25, 40_step.md R129). -/
structure Completed (i : Instr) (s t : State) : Prop where
  pc : PcAsTabled i s t
  frame : SameExcept (mayWrite i) s t
  regs : ∀ r, writesReg i r = false → t.reg r = s.reg r
  mem : StoredClear i s t
  stack : StackMoved s t
  mode : t.mode = s.mode ∨ ∃ x, i = .ldVK x ∧ t.mode = .awaitingKey x
  err : t.err = s.err

/-- Memory, stack, mode and error record are those of `s`: what all but five instructions leave. -/
structure Quiet (s t : State) : Prop where
  mem : t.mem = s.mem
  stack : t.stack = s.stack
  mode : t.mode = s.mode
  err : t.err = s.err

/-! ### Completed instructions -/

theorem storedClear_of_mem_eq {i : Instr} {s t : State} (hi : storedBytes i = 0) (h : t.mem = s.mem) :
    StoredClear i s t := ⟨[], hi.symm, fun k hk => absurd hk (Nat.not_lt_zero k), h⟩

theorem storedClear_storedAtI {i : Instr} {s : State} {bs : List Byte} (hi : bs.length = storedBytes i)
    (h : ClearOfFont s bs.length) : StoredClear i s (s.storedAtI bs) := ⟨bs, hi, h, rfl⟩

theorem Quiet.completed {i : Instr} {s t : State} {ps : List Part} (h : Quiet s t) (hi : storedBytes i = 0)
    (hframe : SameExcept ps s t) (hps : ps ⊆ mayWrite i) (hpc : PcAsTabled i s t)
    (hregs : ∀ r, writesReg i r = false → t.reg r = s.reg r) : Completed i s t :=
  { pc := hpc
    frame := hframe.mono hps
    regs := hregs
    mem := storedClear_of_mem_eq hi h.mem
    stack := .inl h.stack
    mode := .inl h.mode
    err := h.err }

/-- A frame without the registers keeps every register. -/
theorem SameExcept.reg_eq {ps : List Part} {s t : State} (h : SameExcept ps s t) (hv : .v ∉ ps) (r : RegIx) :
    t.reg r = s.reg r := h .v hv r

section skippedIf

variable {s t : State} {ps : List Part} {c : Prop} (h : SkippedIf ps s t c)
include h

theorem skippedIf_pc_eq_ite [Decidable c] : t.pc.toNat = if c then pcPlus s 4 else pcPlus s 2 := by
  obtain ⟨htaken, hnot, -⟩ := h
  split
  case isTrue hc => exact htaken hc
  case isFalse hc => exact hnot hc

theorem skippedIf_pc_or : t.pc.toNat = pcPlus s 4 ∨ t.pc.toNat = pcPlus s 2 := by
  by_cases hc : c
  · exact .inl (h.1 hc)
  · exact .inr (h.2.1 hc)

theorem skippedIf_frame : SameExcept (.pc :: ps) s t := h.2.2

end skippedIf

theorem State.quiet_advance_skipIf (s : State) (c : Bool) : Quiet s (s.advance.skipIf c) :=
  ⟨State.skipIf_mem _ c, State.skipIf_stack _ c, State.skipIf_mode _ c, State.skipIf_err _ c⟩

/-- A store at I is clear of the font region, or has a first target in it. -/
theorem clearOfFont_or_firstFontTarget (s : State) (n : Nat) : ClearOfFont s n ∨ ∃ a, FirstFontTarget s n a := by
  cases hfound : fontTarget (s.effAddr 0) n with
  | none =>
    refine .inl fun k hk hfont => ?_
    exact nomatch (inFont_iff.2 hfont).symm.trans (fontTarget_eq_none.1 hfound k hk)
  | some t =>
    obtain ⟨k, hk, rfl, hfont, hfirst⟩ := fontTarget_eq_some hfound
    refine .inr ⟨_, k, hk, rfl, inFont_iff.1 hfont, fun j hj hfontj => ?_⟩
    exact nomatch (inFont_iff.2 hfontj).symm.trans (hfirst j hj)

/-! ### The instructions that may raise an error, one by one -/

/-- Either the instruction answers a next state that raised an error, or one that completed. -/
def EndsAsDescribed (i : Instr) (s : State) : Prop := ∃ t, exec i s = .next t ∧ (Raised i s t ∨ Completed i s t)

theorem ret_ends (s : State) : EndsAsDescribed .ret s := by
  rcases s.stack.eq_nil_or_concat with hnil | ⟨rest, ra, hstack⟩
  · exact ⟨_, exec_ret_of_nil hnil, .inl ⟨_, _, _, _, .none, by simp, by simp [mayRaise], rfl⟩⟩
  · have hstack : s.stack = rest ++ [ra] := by simpa using hstack
    have hdrop : rest = s.stack.dropLast := by rw [hstack, List.dropLast_concat]
    refine ⟨_, exec_ret_of_concat hstack, .inr ?_⟩
    exact {
      pc := ⟨ra, by rw [hstack, List.getLast?_concat], State.setPc_toNat _ _⟩
      frame := (s.sameExcept_setStack_setPc rest _).mono (by simp [mayWrite])
      regs := fun _ _ => rfl
      mem := storedClear_of_mem_eq rfl rfl
      stack := .inr (.inl hdrop)
      mode := .inl rfl
      err := rfl }

theorem call_ends (nnn : Addr12) (s : State) : EndsAsDescribed (.call nnn) s := by
  rcases Nat.lt_or_ge s.stack.length Config.stackDepth with hroom | hfull
  · refine ⟨_, exec_call_of_room hroom, .inr ?_⟩
    exact {
      pc := State.setPc_toNat _ _
      frame := (s.sameExcept_setStack_setPc _ _).mono (by simp [mayWrite])
      regs := fun _ _ => rfl
      mem := storedClear_of_mem_eq rfl rfl
      stack := .inr (.inr ⟨hroom, rfl⟩)
      mode := .inl rfl
      err := rfl }
  · exact ⟨_, exec_call_of_full hfull, .inl ⟨_, _, _, _, .none, by simp, by simp [mayRaise], rfl⟩⟩

theorem rnd_ends (x : RegIx) (nn : Byte) (s : State) : EndsAsDescribed (.rnd x nn) s := by
  cases h : s.drawRandom.1 with
  | failure =>
    exact ⟨_, exec_rnd_of_failure h, .inl ⟨_, _, _, _, .rand, by simp [mayWrite], by simp [mayRaise], rfl⟩⟩
  | value r =>
    obtain ⟨-, hregs, hpc, hframe⟩ := Queried.rand.regWritten (s.drawRandom.2.regWritten_advance_setReg x (r &&& nn))
    have hquiet : Quiet s (s.drawRandom.2.advance.setReg x (r &&& nn)) := by constructor <;> simp
    exact ⟨_, exec_rnd_of_value h, .inr (hquiet.completed rfl hframe (by simp [mayWrite]) hpc
      fun r hr => hregs r (beq_eq_false_iff_ne.1 hr))⟩

theorem drw_ends (x y : RegIx) (n : Nibble) (s : State) : EndsAsDescribed (.drw x y n) s := by
  cases h : s.askRenderer.1 with
  | failure =>
    exact ⟨_, exec_drw_of_failure h, .inl ⟨_, _, _, _, .renderer, by simp [mayWrite], by simp [mayRaise], rfl⟩⟩
  | value _ =>
    have hquiet : Quiet s (s.afterDraw x y n) := by constructor <;> simp [State.afterDraw]
    exact ⟨_, exec_drw_of_value h, .inr (hquiet.completed rfl (s.sameExcept_afterDraw x y n) (by simp [mayWrite])
      (s.afterDraw_pc_toNat x y n) fun r hr => s.afterDraw_reg x y n (beq_eq_false_iff_ne.1 hr))⟩

theorem ldVK_ends (x : RegIx) (s : State) : EndsAsDescribed (.ldVK x) s := by
  cases h : s.sampleKeys.1 with
  | failure =>
    exact ⟨_, exec_ldVK_of_failure x h, .inl ⟨_, _, _, _, .keys, by simp [mayWrite], by simp [mayRaise], rfl⟩⟩
  | value K =>
    have hframe := s.sameExcept_keyWaitEntry K (.awaitingKey x)
    refine ⟨_, exec_ldVK_of_value x h, .inr ?_⟩
    exact {
      pc := (State.advance_pc_toNat _).trans (Queried.keys.pcPlus_eq 2)
      frame := hframe.mono (by simp [mayWrite])
      regs := fun r _ => hframe.reg_eq (by simp) r
      mem := storedClear_of_mem_eq rfl Queried.keys.mem_eq
      stack := .inl Queried.keys.stack_eq
      mode := .inr ⟨x, rfl, rfl⟩
      err := s.sampleKeys_err }

/-- SKP and SKNP, as the one key skip they are. -/
theorem keySkip_ends {i : Instr} {d : Bool} {s : State} {k : Byte} (hexec : exec i s = keySkip i k d s)
    (hraise : mayRaise i = [.keyIndexRange, .capabilityError])
    (hwrite : mayWrite i = [.pc, .mode, .err, .keysIn, .draws]) (hstored : storedBytes i = 0)
    (hpc : ∀ t : State, (t.pc.toNat = pcPlus s 4 ∨ t.pc.toNat = pcPlus s 2) → PcAsTabled i s t) :
    EndsAsDescribed i s := by
  unfold EndsAsDescribed
  rw [hexec]
  rcases Nat.lt_or_ge 0xF k.toNat with hout | hin
  · exact ⟨_, keySkip_of_outOfRange i d hout, .inl ⟨_, _, _, _, .none, by simp, by simp [hraise], rfl⟩⟩
  · cases h : s.sampleKeys.1 with
    | failure =>
      exact ⟨_, keySkip_of_failure i d hin h, .inl ⟨_, _, _, _, .keys, by simp [hwrite], by simp [hraise], rfl⟩⟩
    | value K =>
      have hskip : SkippedIf [.keysIn, .draws] s (s.sampleKeys.2.advance.skipIf (keyDown K k == d)) (keyDown K k = d) :=
        Queried.keys.skippedIf (State.skippedIf_advance_skipIf _ beq_iff_eq)
      have hquiet : Quiet s (s.sampleKeys.2.advance.skipIf (keyDown K k == d)) := by constructor <;> simp
      have hframe := skippedIf_frame hskip
      exact ⟨_, keySkip_of_value i d hin h, .inr (hquiet.completed hstored hframe (by simp [hwrite])
        (hpc _ (skippedIf_pc_or hskip)) fun r _ => hframe.reg_eq (by simp) r)⟩

/-- Fx33 and Fx55, as the one store at I they are. -/
theorem storeAtI_ends {i : Instr} {s : State} {bs : List Byte} (hexec : exec i s = storeAtI i bs s)
    (hlen : bs.length = storedBytes i) (hraise : mayRaise i = [.fontWrite])
    (hwrite : mayWrite i = [.pc, .mem, .mode, .err])
    (hpc : ∀ t : State, t.pc.toNat = pcPlus s 2 → PcAsTabled i s t) : EndsAsDescribed i s := by
  unfold EndsAsDescribed
  rw [hexec]
  rcases clearOfFont_or_firstFontTarget s bs.length with hclear | ⟨a, ha⟩
  · refine ⟨_, storeAtI_of_clear i hclear, .inr ?_⟩
    exact {
      pc := hpc _ (s.storedAtI_pc_toNat bs)
      frame := (s.sameExcept_storedAtI bs).mono (by simp [hwrite])
      regs := fun _ _ => rfl
      mem := storedClear_storedAtI hlen hclear
      stack := .inl rfl
      mode := .inl rfl
      err := rfl }
  · exact ⟨_, storeAtI_of_target i ha, .inl ⟨_, _, _, _, .none, by simp, by simp [hraise], rfl⟩⟩

/-! ### Families of instructions that raise none -/

/-- An instruction that only writes Vx. -/
theorem writeReg_ends {i : Instr} {s : State} {x : RegIx} {b : Byte} (hexec : exec i s = writeReg x b s)
    (hstored : storedBytes i = 0) (hwrite : mayWrite i = [.pc, .v]) (hreg : ∀ r, writesReg i r = (r == x))
    (hpc : ∀ t : State, t.pc.toNat = pcPlus s 2 → PcAsTabled i s t) : EndsAsDescribed i s := by
  obtain ⟨-, hregs, hpc2, hframe⟩ := s.regWritten_advance_setReg x b
  have hquiet : Quiet s (s.advance.setReg x b) := ⟨rfl, rfl, rfl, rfl⟩
  exact ⟨_, hexec, .inr (hquiet.completed hstored hframe (by simp [hwrite]) (hpc _ hpc2)
    fun r hr => hregs r (by simpa [hreg] using hr))⟩

/-- An instruction that writes Vx and then VF as a flag. -/
theorem writeRegFlag_ends {i : Instr} {s : State} {x : RegIx} {b : Byte} {c : Bool}
    (hexec : exec i s = writeRegFlag x b c s) (hstored : storedBytes i = 0) (hwrite : mayWrite i = [.pc, .v])
    (hreg : ∀ r, writesReg i r = (r == x || r == 0xF)) (hpc : ∀ t : State, t.pc.toNat = pcPlus s 2 → PcAsTabled i s t) :
    EndsAsDescribed i s := by
  obtain ⟨-, -, hregs, hpc2, hframe⟩ := s.flagWritten_advance_setRegFlag x (b := b) (c := c) rfl rfl
  have hquiet : Quiet s (s.advance.setRegFlag x b c) := ⟨rfl, rfl, rfl, rfl⟩
  refine ⟨_, hexec, .inr (hquiet.completed hstored hframe (by simp [hwrite]) (hpc _ hpc2) fun r hr => ?_)⟩
  have hne : r ≠ x ∧ r ≠ 0xF := by simpa [hreg] using hr
  exact hregs r hne.1 hne.2

/-- An instruction that only skips. -/
theorem skipIf_ends {i : Instr} {s : State} {c : Bool} (hexec : exec i s = .next (s.advance.skipIf c))
    (hstored : storedBytes i = 0) (hwrite : mayWrite i = [.pc])
    (hpc : ∀ t : State, t.pc.toNat = (if c = true then pcPlus s 4 else pcPlus s 2) → PcAsTabled i s t) :
    EndsAsDescribed i s := by
  have hskip : SkippedIf [] s (s.advance.skipIf c) (c = true) := s.skippedIf_advance_skipIf Iff.rfl
  have hframe := skippedIf_frame hskip
  exact ⟨_, hexec, .inr ((s.quiet_advance_skipIf c).completed hstored hframe (by simp [hwrite])
    (hpc _ (skippedIf_pc_eq_ite hskip)) fun r _ => hframe.reg_eq (by simp) r)⟩

/-- An instruction that keeps the registers and all of `Quiet`, with its frame. -/
theorem quiet_ends {i : Instr} {s t : State} (hexec : exec i s = .next t) (hquiet : Quiet s t)
    (hstored : storedBytes i = 0) (hframe : SameExcept (mayWrite i) s t) (hv : .v ∉ mayWrite i)
    (hpc : PcAsTabled i s t) : EndsAsDescribed i s :=
  ⟨t, hexec, .inr (hquiet.completed hstored hframe (List.Subset.refl _) hpc fun r _ => hframe.reg_eq hv r)⟩

/-- What an instruction can do (40_step.md R126, R129, 60_exceptions.md R316, R320). -/
theorem exec_spec (i : Instr) (s : State) : EndsAsDescribed i s := by
  cases i
  case ret => exact ret_ends s
  case call nnn => exact call_ends nnn s
  case rnd x nn => exact rnd_ends x nn s
  case drw x y n => exact drw_ends x y n s
  case ldVK x => exact ldVK_ends x s
  case skp x | sknp x => exact keySkip_ends rfl rfl rfl rfl fun _ h => h
  case ldBV x => exact storeAtI_ends rfl (bcdDigits_length _) rfl rfl fun _ h => h
  case ldMV x => exact storeAtI_ends rfl (s.regBlock_length x) rfl rfl fun _ h => h
  case ldVB x _ | addVB x _ | ldVV x _ | orVV x _ | andVV x _ | xorVV x _ | ldVDT x =>
    exact writeReg_ends rfl rfl rfl (fun _ => rfl) fun _ h => h
  case addVV x _ | sub x _ | shr x _ | subn x _ | shl x _ =>
    exact writeRegFlag_ends rfl rfl rfl (fun _ => rfl) fun _ h => h
  case seVB x _ | sneVB x _ | seVV x _ | sneVV x _ =>
    exact skipIf_ends rfl rfl rfl fun t h => by simpa [PcAsTabled] using h
  case jp nnn =>
    exact quiet_ends (exec_jp nnn s) ⟨rfl, rfl, rfl, rfl⟩ rfl (s.sameExcept_setPc _) (by simp [mayWrite])
      (s.setPc_toNat _)
  case jpV0 nnn =>
    exact quiet_ends (exec_jpV0 nnn s) ⟨rfl, rfl, rfl, rfl⟩ rfl (s.sameExcept_setPc _) (by simp [mayWrite])
      (s.setPc_toNat _)
  case ldI | addIV | ldFV =>
    exact quiet_ends rfl ⟨rfl, rfl, rfl, rfl⟩ rfl ((s.sameExcept_advance_setI _).mono (by simp [mayWrite]))
      (by simp [mayWrite]) s.advance_pc_toNat
  case cls =>
    exact quiet_ends rfl ⟨rfl, rfl, rfl, rfl⟩ rfl ((s.sameExcept_advance_setFb _).mono (by simp [mayWrite]))
      (by simp [mayWrite]) s.advance_pc_toNat
  case ldDTV =>
    exact quiet_ends rfl ⟨rfl, rfl, rfl, rfl⟩ rfl
      ((s.advance.sameExcept_setDt _).of_advance.mono (by simp [mayWrite])) (by simp [mayWrite]) s.advance_pc_toNat
  case ldSTV =>
    exact quiet_ends rfl ⟨rfl, rfl, rfl, rfl⟩ rfl
      ((s.advance.sameExcept_setSt _).of_advance.mono (by simp [mayWrite])) (by simp [mayWrite]) s.advance_pc_toNat
  case ldVM x =>
    have hquiet : Quiet s (s.advance.setRegBlock (s.loadBlock (x.toNat + 1))) := by constructor <;> simp
    have hframe := s.sameExcept_of_advance (s.advance.sameExcept_setRegBlock (s.loadBlock (x.toNat + 1)))
    refine ⟨_, rfl, .inr (hquiet.completed rfl hframe (by simp [mayWrite]) s.advance_pc_toNat fun r hr => ?_)⟩
    rw [State.reg_setRegBlock_loadBlock, if_neg (of_decide_eq_false hr)]

theorem exec_cases {i : Instr} {s t : State} (h : exec i s = .next t) : Raised i s t ∨ Completed i s t := by
  obtain ⟨u, hu, hends⟩ := exec_spec i s
  cases hu.symm.trans h
  exact hends

end Sys2Proof.Machine
end

section
/-! SUPPORT. Proofs for the rules of the whole machine that speak of one instruction (10_state.md R25, 40_step.md R129,
60_exceptions.md R316, R320), each from the two ways an instruction ends, and what no instruction reads. -/

namespace Sys2Proof.Machine

open Sys2Proof.Claims

/-! ### An instruction that raised an error -/

/-- An instruction that may raise an error may write the mode and the record. -/
theorem halt_mem_mayWrite {i : Instr} {k : ErrorKind} (h : k ∈ mayRaise i) :
    Part.mode ∈ mayWrite i ∧ Part.err ∈ mayWrite i := by
  cases i
  case ret | call | rnd | drw | skp | sknp | ldVK | ldBV | ldMV => simp [mayWrite]
  all_goals simp [mayRaise] at h

theorem mayRaise_subset (i : Instr) :
    mayRaise i ⊆ [.stackUnderflow, .capabilityError, .stackOverflow, .fontWrite, .keyIndexRange] := by
  cases i <;> simp [mayRaise]

/-- The five kinds an instruction can raise, with their codes (60_exceptions.md R311). -/
theorem kind_code_of_mayRaise {i : Instr} {k : ErrorKind} (h : k ∈ mayRaise i) :
    (k, k.code) ∈ [(ErrorKind.stackUnderflow, 2), (.capabilityError, 4), (.stackOverflow, 5), (.fontWrite, 6),
      (.keyIndexRange, 7)] :=
  List.mem_map_of_mem (f := fun k => (k, k.code)) (mayRaise_subset i h)

namespace Raised

variable {i : Instr} {s t : State} (h : Raised i s t)
include h

theorem halted : ∃ k, t.mode = .halted k ∧ k ∈ mayRaise i := by
  obtain ⟨_, _, k, _, _, _, hk, rfl⟩ := h
  exact ⟨k, rfl, hk⟩

theorem haltedWith : ∃ ps k info,
    ps ⊆ [.keysIn, .randIn, .presentIn, .draws] ∧ ps ⊆ mayWrite i ∧ k ∈ mayRaise i ∧
    HaltedWith ps s t k k.code (some s.pc) (some (encode i)) info := by
  obtain ⟨ps, q, k, info, hq, hps, hk, rfl⟩ := h
  exact ⟨ps, k, info, hq.subset_ports, hps, hk, hq.haltedWith k _ info⟩

theorem pc_eq : t.pc = s.pc := by
  obtain ⟨_, q, _, _, hq, _, _, rfl⟩ := h
  exact hq.pc_eq

theorem mem_eq : t.mem = s.mem := by
  obtain ⟨_, q, _, _, hq, _, _, rfl⟩ := h
  exact hq.mem_eq

theorem stack_eq : t.stack = s.stack := by
  obtain ⟨_, q, _, _, hq, _, _, rfl⟩ := h
  exact hq.stack_eq

theorem reg_eq (r : RegIx) : t.reg r = s.reg r := by
  obtain ⟨_, q, _, _, hq, _, _, rfl⟩ := h
  exact hq.reg_eq r

theorem frame : SameExcept (mayWrite i) s t := by
  obtain ⟨ps, k, info, -, hps, hk, -, -, hframe⟩ := h.haltedWith
  obtain ⟨hmode, herr⟩ := halt_mem_mayWrite hk
  exact hframe.mono (List.cons_subset.2 ⟨hmode, List.cons_subset.2 ⟨herr, hps⟩⟩)

end Raised

/-! ### An instruction that completed -/

namespace Completed

variable {i : Instr} {s t : State} (h : Completed i s t)
include h

/-- From mode Running an instruction that completes leaves Running or AwaitingKey. -/
theorem not_halted (hrun : s.mode = .running) (k : ErrorKind) : t.mode ≠ .halted k := by
  rcases h.mode with hmode | ⟨x, -, hmode⟩
  · simp [hmode, hrun]
  · simp [hmode]

/-- Bytes outside the stores of the instruction are unchanged (20_memory.md R70). -/
theorem read_eq {a : Nat} (ha : ∀ k, k < storedBytes i → a % Config.memSize ≠ s.effAddr k % Config.memSize) :
    t.mem.read a = s.mem.read a := by
  obtain ⟨bs, hlen, -, hmem⟩ := h.mem
  rw [hmem]
  exact s.mem.read_writeBytes_other _ _ _ (by rwa [hlen])

end Completed

section exec

variable {i : Instr} {s t : State} (h : exec i s = .next t)
include h

theorem exec_frame : SameExcept (mayWrite i) s t := by
  rcases exec_cases h with hraised | hdone
  · exact hraised.frame
  · exact hdone.frame

theorem exec_reg_eq {r : RegIx} (hr : writesReg i r = false) : t.reg r = s.reg r := by
  rcases exec_cases h with hraised | hdone
  · exact hraised.reg_eq r
  · exact hdone.regs r hr

theorem exec_read_eq {a : Nat} (ha : ∀ k, k < storedBytes i → a % Config.memSize ≠ s.effAddr k % Config.memSize) :
    t.mem.read a = s.mem.read a := by
  rcases exec_cases h with hraised | hdone
  · rw [hraised.mem_eq]
  · exact hdone.read_eq ha

/-- An instruction that ends in Halted from Running raised an error: one that completes does not halt. -/
theorem raised_of_halted {k : ErrorKind} (hrun : s.mode = .running) (hk : t.mode = .halted k) : Raised i s t :=
  (exec_cases h).resolve_right fun hdone => hdone.not_halted hrun k hk

end exec

/-! ### ST and kw_prev are not read -/

/-- The state with other values in the two parts no instruction reads, ST and kw_prev (10_state.md R32, R34). -/
def State.setUnread (s : State) (b : Byte) (K : Word) : State := (s.setSt b).setKwPrev K

section setUnread

variable (s : State) (b : Byte) (K : Word)

theorem State.sampleKeys_setUnread :
    (s.setUnread b K).sampleKeys = (s.sampleKeys.1, s.sampleKeys.2.setUnread b K) := by
  cases hlist : s.keysIn with
  | nil => rw [State.sampleKeys_free hlist, State.sampleKeys_free (s := s.setUnread b K) hlist]; rfl
  | cons a as => rw [State.sampleKeys_listed hlist, State.sampleKeys_listed (s := s.setUnread b K) hlist]; rfl

theorem State.drawRandom_setUnread :
    (s.setUnread b K).drawRandom = (s.drawRandom.1, s.drawRandom.2.setUnread b K) := by
  cases hlist : s.randIn with
  | nil => rw [State.drawRandom_free hlist, State.drawRandom_free (s := s.setUnread b K) hlist]; rfl
  | cons a as => rw [State.drawRandom_listed hlist, State.drawRandom_listed (s := s.setUnread b K) hlist]; rfl

theorem State.askRenderer_setUnread :
    (s.setUnread b K).askRenderer = (s.askRenderer.1, s.askRenderer.2.setUnread b K) := by
  cases hlist : s.presentIn with
  | nil => rw [State.askRenderer_free hlist, State.askRenderer_free (s := s.setUnread b K) hlist]; rfl
  | cons a as => rw [State.askRenderer_listed hlist, State.askRenderer_listed (s := s.setUnread b K) hlist]; rfl

theorem State.setUnread_skipIf (c : Bool) : (s.setUnread b K).skipIf c = (s.skipIf c).setUnread b K := by
  cases c <;> rfl

end setUnread

section exec

variable {i : Instr} {s t : State} (b : Byte) (K : Word)

theorem exec_rnd_setUnread {x : RegIx} {nn : Byte} (h : exec (.rnd x nn) s = .next t) :
    exec (.rnd x nn) (s.setUnread b K) = .next (t.setUnread b K) := by
  have hquery := s.drawRandom_setUnread b K
  cases hr : s.drawRandom.1 with
  | failure =>
    cases (exec_rnd_of_failure hr).symm.trans h
    rw [exec_rnd_of_failure (by rw [hquery, hr]), hquery]
    rfl
  | value r =>
    cases (exec_rnd_of_value hr).symm.trans h
    rw [exec_rnd_of_value (by rw [hquery, hr]), hquery]
    rfl

theorem exec_drw_setUnread {x y : RegIx} {n : Nibble} (h : exec (.drw x y n) s = .next t) :
    exec (.drw x y n) (s.setUnread b K) = .next (t.setUnread b K) := by
  have hquery := s.askRenderer_setUnread b K
  cases hr : s.askRenderer.1 with
  | failure =>
    cases (exec_drw_of_failure hr).symm.trans h
    rw [exec_drw_of_failure (by rw [hquery, hr]), hquery]
    rfl
  | value _ =>
    cases (exec_drw_of_value hr).symm.trans h
    rw [exec_drw_of_value (by rw [hquery, hr]), State.afterDraw, hquery]
    rfl

theorem keySkip_setUnread {k : Byte} {d : Bool} (h : keySkip i k d s = .next t) :
    keySkip i k d (s.setUnread b K) = .next (t.setUnread b K) := by
  have hquery := s.sampleKeys_setUnread b K
  rcases Nat.lt_or_ge 0xF k.toNat with hout | hin
  · cases (keySkip_of_outOfRange i d hout).symm.trans h
    exact keySkip_of_outOfRange i d hout
  cases hr : s.sampleKeys.1 with
  | failure =>
    cases (keySkip_of_failure i d hin hr).symm.trans h
    rw [keySkip_of_failure i d hin (by rw [hquery, hr]), hquery]
    rfl
  | value K' =>
    cases (keySkip_of_value i d hin hr).symm.trans h
    rw [keySkip_of_value i d hin (by rw [hquery, hr]), hquery, ← State.setUnread_skipIf]
    rfl

theorem storeAtI_setUnread {bs : List Byte} (h : storeAtI i bs s = .next t) :
    storeAtI i bs (s.setUnread b K) = .next (t.setUnread b K) := by
  rcases clearOfFont_or_firstFontTarget s bs.length with hclear | ⟨a, ha⟩
  · cases (storeAtI_of_clear i hclear).symm.trans h
    exact storeAtI_of_clear (s := s.setUnread b K) i hclear
  · cases (storeAtI_of_target i ha).symm.trans h
    exact storeAtI_of_target (s := s.setUnread b K) i ha

theorem exec_call_setUnread {nnn : Addr12} (h : exec (.call nnn) s = .next t) :
    exec (.call nnn) (s.setUnread b K) = .next (t.setUnread b K) := by
  rcases Nat.lt_or_ge s.stack.length Config.stackDepth with hroom | hfull
  · cases (exec_call_of_room hroom).symm.trans h
    exact exec_call_of_room (s := s.setUnread b K) hroom
  · cases (exec_call_of_full hfull).symm.trans h
    exact exec_call_of_full (s := s.setUnread b K) hfull

theorem exec_ret_setUnread (h : exec .ret s = .next t) :
    exec .ret (s.setUnread b K) = .next (t.setUnread b K) := by
  rcases s.stack.eq_nil_or_concat with hnil | ⟨rest, ra, hstack⟩
  · cases (exec_ret_of_nil hnil).symm.trans h
    exact exec_ret_of_nil (s := s.setUnread b K) hnil
  · have hstack : s.stack = rest ++ [ra] := by simpa using hstack
    cases (exec_ret_of_concat hstack).symm.trans h
    exact exec_ret_of_concat (s := s.setUnread b K) hstack

/-- An instruction that writes neither ST nor kw_prev does the same whatever they hold. -/
theorem exec_setUnread (hst : ∀ x, i ≠ .ldSTV x) (hkw : ∀ x, i ≠ .ldVK x) (h : exec i s = .next t) :
    exec i (s.setUnread b K) = .next (t.setUnread b K) := by
  cases i
  case ldSTV x => exact absurd rfl (hst x)
  case ldVK x => exact absurd rfl (hkw x)
  case rnd => exact exec_rnd_setUnread b K h
  case drw => exact exec_drw_setUnread b K h
  case skp | sknp => exact keySkip_setUnread b K h
  case ldBV | ldMV => exact storeAtI_setUnread b K h
  case call => exact exec_call_setUnread b K h
  case ret => exact exec_ret_setUnread b K h
  case seVB | sneVB | seVV | sneVV =>
    obtain rfl := Host.Outcome.next.inj h
    rw [← State.setUnread_skipIf]
    rfl
  -- the others write ST and kw_prev into a state of the same form
  all_goals
    obtain rfl := Host.Outcome.next.inj h
    rfl

/-- Fx0A overwrites kw_prev, and does the same whatever ST holds. -/
theorem exec_ldVK_setSt {x : RegIx} (h : exec (.ldVK x) s = .next t) :
    exec (.ldVK x) (s.setSt b) = .next (t.setSt b) := by
  have hquery : (s.setSt b).sampleKeys = (s.sampleKeys.1, s.sampleKeys.2.setUnread b s.kwPrev) :=
    s.sampleKeys_setUnread b s.kwPrev
  cases hr : s.sampleKeys.1 with
  | failure =>
    cases (exec_ldVK_of_failure x hr).symm.trans h
    rw [exec_ldVK_of_failure x (by rw [hquery, hr]), hquery, ← s.sampleKeys_kwPrev]
    rfl
  | value K =>
    cases (exec_ldVK_of_value x hr).symm.trans h
    rw [exec_ldVK_of_value x (by rw [hquery, hr]), hquery]
    rfl

/-- An instruction but Fx18 keeps ST (45_timers_input.md R282). -/
theorem exec_st_eq (hst : ∀ x, i ≠ .ldSTV x) (h : exec i s = .next t) : t.st = s.st := by
  refine exec_frame h .st ?_
  cases i
  case ldSTV x => exact absurd rfl (hst x)
  all_goals simp [mayWrite]

/-- An instruction but Fx15 keeps DT (45_timers_input.md R281). -/
theorem exec_dt_eq (hdt : ∀ x, i ≠ .ldDTV x) (h : exec i s = .next t) : t.dt = s.dt := by
  refine exec_frame h .dt ?_
  cases i
  case ldDTV x => exact absurd rfl (hdt x)
  all_goals simp [mayWrite]

/-- An instruction but Fx0A keeps kw_prev (45_timers_input.md R286). -/
theorem exec_kwPrev_eq (hkw : ∀ x, i ≠ .ldVK x) (h : exec i s = .next t) : t.kwPrev = s.kwPrev := by
  refine exec_frame h .kwPrev ?_
  cases i
  case ldVK x => exact absurd rfl (hkw x)
  all_goals simp [mayWrite]

end exec

end Sys2Proof.Machine

namespace Sys2Proof.Proofs

open Sys2Proof.Machine Sys2Proof.Claims

/-- Settles O18: an error keeps PC (`Raised.pc_eq`), and an instruction that completes leaves it as tabled. -/
theorem programCounterAfterInstruction : Obligations.ProgramCounterAfterInstruction := by
  intro i s t hrun h
  rcases exec_cases h with hraised | hdone
  · obtain ⟨k, hk, -⟩ := hraised.halted
    exact .inl ⟨⟨k, hk⟩, hraised.pc_eq⟩
  · exact .inr ⟨hdone.not_halted hrun, hdone.pc⟩

/-- Settles O19: an error keeps every register, and an instruction that completes writes those of `writesReg` only. -/
theorem registersChangeOnlyAsDestinations : Obligations.RegistersChangeOnlyAsDestinations :=
  fun _ _ _ _ h hr => exec_reg_eq h hr

/-- Settles O20: parts, registers and bytes, each for the two ways an instruction ends. -/
theorem instructionFrame : Obligations.InstructionFrame :=
  fun _ _ _ h => ⟨exec_frame h, fun _ hr => exec_reg_eq h hr, fun _ ha => exec_read_eq h ha⟩

/-- Settles O21: an instruction that halts raised an error after at most one query (`Raised.haltedWith`). -/
theorem errorsDiscardEveryOtherEffect : Obligations.ErrorsDiscardEveryOtherEffect := by
  intro i s t k hrun h hk
  obtain ⟨ps, j, info, hps, -, hj, hmode, herr, hframe⟩ := (raised_of_halted h hrun hk).haltedWith
  obtain rfl : j = k := by simpa [hmode] using hk
  have hports := List.cons_subset_cons Part.mode (List.cons_subset_cons Part.err hps)
  exact ⟨j.code, info, ⟨hmode, herr, hframe.mono hports⟩, kind_code_of_mayRaise hj⟩

/-- Settles O22: an instruction that halts raised one of its own errors (`Raised.halted`). -/
theorem instructionsRaiseOnlyTheirErrors : Obligations.InstructionsRaiseOnlyTheirErrors := by
  intro i s t k hrun h hk
  obtain ⟨j, hj, hraise⟩ := (raised_of_halted h hrun hk).halted
  obtain rfl : j = k := by simpa [hj] using hk
  exact hraise

/-- Settles O27: changing ST, or kw_prev, is changing both to a new and an unchanged value (`exec_setUnread`); Fx0A for
ST and Fx18 for kw_prev, which overwrite the other part, on their own. -/
theorem soundTimerAndKwPrevAreNotRead : Obligations.SoundTimerAndKwPrevAreNotRead := by
  refine fun i s t h => ⟨fun b hst => ?_, fun K hkw => ?_⟩
  · by_cases hkw : ∀ x, i ≠ .ldVK x
    · have ht : t.setUnread b s.kwPrev = t.setSt b := by rw [← exec_kwPrev_eq hkw h]; rfl
      rw [← ht]
      exact exec_setUnread b s.kwPrev hst hkw h
    · obtain ⟨x, rfl⟩ : ∃ x, i = .ldVK x := by simpa using hkw
      exact exec_ldVK_setSt b h
  · by_cases hst : ∀ x, i ≠ .ldSTV x
    · have ht : t.setUnread s.st K = t.setKwPrev K := by rw [← exec_st_eq hst h]; rfl
      rw [← ht]
      exact exec_setUnread s.st K hst hkw h
    · obtain ⟨x, rfl⟩ : ∃ x, i = .ldSTV x := by simpa using hst
      cases h
      rfl

end Sys2Proof.Proofs
end

section
/-! SUPPORT. Proofs for 40_step.md, 45_timers_input.md R287 and 60_exceptions.md R323: one step by the transition it
makes (`step_cases`), and the three ends of a poll. -/

namespace Sys2Proof.Machine

open Sys2Proof.Claims

/-! ### The transitions, one by one -/

theorem step_of_decode {s : State} {i : Instr} (hs : AboutToStep s) (hd : decode s.fetchWord = .ok i) :
    step s = exec i s.afterEvent := by
  rw [step_of_aboutToStep hs, executeStep, State.fetchWord_afterEvent, hd]

theorem step_of_aboutToPoll {s : State} {x : RegIx} (h : AboutToPoll s x) :
    step s = .next (pollKeys x s.afterEvent) := by
  obtain ⟨hmode, hevent⟩ := h
  simp [step, transition, hmode, hevent]

theorem step_of_tick {s : State} (hs : Enabled s) (he : s.nextEvent = .tick) : step s = .next s.afterEvent.ticked := by
  rcases hs with hmode | ⟨x, hmode⟩ <;> simp [step, transition, hmode, he]

theorem step_of_cancel {s : State} (hs : Enabled s) (he : s.nextEvent = .cancel) :
    step s = .next s.afterEvent.cancelled := by
  rcases hs with hmode | ⟨x, hmode⟩ <;> simp [step, transition, hmode, he]

/-- What a step that answers a next state did: the transition, and what is known of the state before it. -/
inductive Stepped (s : State) : State → Prop
  | illegal {r : Reject} (hs : AboutToStep s) (hd : decode s.fetchWord = .error r) :
      Stepped s (s.afterEvent.raiseAt .decodeError s.fetchWord .none)
  | instr {i : Instr} {t : State} (hs : AboutToStep s) (hd : decode s.fetchWord = .ok i)
      (hx : exec i s.afterEvent = .next t) : Stepped s t
  | poll {x : RegIx} (hs : AboutToPoll s x) : Stepped s (pollKeys x s.afterEvent)
  | tick (hs : Enabled s) (he : s.nextEvent = .tick) : Stepped s s.afterEvent.ticked
  | cancel (hs : Enabled s) (he : s.nextEvent = .cancel) : Stepped s s.afterEvent.cancelled

theorem step_cases {s t : State} (h : step s = .next t) : Stepped s t := by
  rcases transition_next_cases h with ⟨hmode, he, hx⟩ | ⟨x, hmode, he, rfl⟩ | ⟨hs, he, rfl⟩ | ⟨hs, he, rfl⟩
  · rcases executeStep_next_cases hx with ⟨r, hd, rfl⟩ | ⟨i, hd, hx⟩
    · exact .illegal ⟨hmode, he⟩ hd
    · exact .instr ⟨hmode, he⟩ hd hx
  · exact .poll ⟨hmode, he⟩
  · exact .tick hs he
  · exact .cancel hs he

/-- A Step in mode Running always answers a next state (40_step.md R123). -/
theorem step_answers_of_aboutToStep {s : State} (hs : AboutToStep s) : ∃ t, step s = .next t := by
  cases hd : decode s.fetchWord with
  | error r => exact ⟨_, step_of_illegalWord hs ((decode_error_iff _).1 ⟨r, hd⟩)⟩
  | ok i =>
    rw [step_of_decode hs hd]
    exact exec_answers i _

/-- In Running and AwaitingKey each of the three transitions answers a next state (40_step.md R122). -/
theorem step_answers_of_enabled {s : State} (hs : Enabled s) : ∃ t, step s = .next t := by
  cases he : s.nextEvent with
  | tick => exact ⟨_, step_of_tick hs he⟩
  | cancel => exact ⟨_, step_of_cancel hs he⟩
  | step =>
    rcases hs with hmode | ⟨x, hmode⟩
    · exact step_answers_of_aboutToStep ⟨hmode, he⟩
    · exact ⟨_, step_of_aboutToPoll ⟨hmode, he⟩⟩

/-! ### Polls -/

theorem newlyDown_iff {K prev : Word} {k : Nat} (hk : k < 16) :
    (newKeys Config.keywaitTrigger K prev).getLsbD k = true ↔ NewlyDown K prev k := by
  rw [newKeys_getLsbD K prev hk, Bool.and_eq_true, Bool.not_eq_true']
  exact (and_iff_right hk).symm

/-- The lowest key newly down ends the wait (45_timers_input.md R287, R288). -/
theorem leastKey_newKeys_eq_some_iff {K prev : Word} {k : Nat} :
    leastKey (newKeys Config.keywaitTrigger K prev) = some k ↔
      NewlyDown K prev k ∧ ∀ j, j < k → ¬ NewlyDown K prev j := by
  rw [leastKey_eq_some]
  constructor
  · rintro ⟨hk, hdown, hleast⟩
    refine ⟨(newlyDown_iff hk).1 hdown, fun j hj hnew => ?_⟩
    exact nomatch (hleast j hj).symm.trans ((newlyDown_iff (hj.trans hk)).2 hnew)
  · rintro ⟨hnew, hleast⟩
    have hk : k < 16 := hnew.1
    refine ⟨hk, (newlyDown_iff hk).2 hnew, fun j hj => Bool.eq_false_iff.2 fun hdown => ?_⟩
    exact hleast j hj ((newlyDown_iff (hj.trans hk)).1 hdown)

theorem leastKey_newKeys_eq_none_iff {K prev : Word} :
    leastKey (newKeys Config.keywaitTrigger K prev) = none ↔ ∀ k, ¬ NewlyDown K prev k := by
  rw [leastKey_eq_none]
  refine ⟨fun h k hnew => ?_, fun h k hk => Bool.eq_false_iff.2 fun hdown => h k ((newlyDown_iff hk).1 hdown)⟩
  exact nomatch (h k hnew.1).symm.trans ((newlyDown_iff hnew.1).2 hnew)

section pollKeys

variable {s : State} (x : RegIx)

theorem pollKeys_of_new {K : Word} {k : Nat} (h : s.sampleKeys.1 = .value K) (hk : NewlyDown K s.kwPrev k)
    (hleast : ∀ j, j < k → ¬ NewlyDown K s.kwPrev j) :
    pollKeys x s = (s.sampleKeys.2.setReg x (BitVec.ofNat 8 k)).setMode .running := by
  simp only [pollKeys_eq, h, leastKey_newKeys_eq_some_iff.2 ⟨hk, hleast⟩]

theorem pollKeys_of_noneNew {K : Word} (h : s.sampleKeys.1 = .value K) (hnone : ∀ k, ¬ NewlyDown K s.kwPrev k) :
    pollKeys x s = s.sampleKeys.2.setKwPrev K := by
  simp only [pollKeys_eq, h, leastKey_newKeys_eq_none_iff.2 hnone]

theorem pollKeys_of_failure (h : s.sampleKeys.1 = .failure) : pollKeys x s =
    s.sampleKeys.2.raise .capabilityError (some (waitAddr s)) none (.collaborator .input) := by
  simp only [pollKeys_eq, h]

variable (s)

/-- What a poll can do (45_timers_input.md R287): go on waiting, write the key and resume, or fail. -/
theorem pollKeys_cases :
    (∃ K, s.sampleKeys.1 = .value K ∧ pollKeys x s = s.sampleKeys.2.setKwPrev K) ∨
    (∃ K k, s.sampleKeys.1 = .value K ∧ NewlyDown K s.kwPrev k ∧
      pollKeys x s = (s.sampleKeys.2.setReg x (BitVec.ofNat 8 k)).setMode .running) ∨
    (s.sampleKeys.1 = .failure ∧ pollKeys x s =
      s.sampleKeys.2.raise .capabilityError (some (waitAddr s)) none (.collaborator .input)) := by
  cases h : s.sampleKeys.1 with
  | failure => exact .inr (.inr ⟨rfl, pollKeys_of_failure x h⟩)
  | value K =>
    cases hleast : leastKey (newKeys Config.keywaitTrigger K s.kwPrev) with
    | none => exact .inl ⟨K, rfl, pollKeys_of_noneNew x h (leastKey_newKeys_eq_none_iff.1 hleast)⟩
    | some k =>
      obtain ⟨hk, hl⟩ := leastKey_newKeys_eq_some_iff.1 hleast
      exact .inr (.inl ⟨K, k, rfl, hk, pollKeys_of_new x h hk hl⟩)

/-- A poll keeps PC, memory, the stack, the timers and the presented framebuffers. -/
theorem sameExcept_pollKeys : SameExcept [.v, .mode, .kwPrev, .err, .keysIn, .draws] s (pollKeys x s) := by
  have hquery := s.sameExcept_sampleKeys
  rcases pollKeys_cases s x with ⟨K, -, hpoll⟩ | ⟨K, k, -, -, hpoll⟩ | ⟨-, hpoll⟩ <;> rw [hpoll]
  · exact (hquery.append (State.sameExcept_setKwPrev _ K)).mono (by simp)
  · exact ((hquery.append (State.sameExcept_setReg _ x _)).append (State.sameExcept_setMode _ _)).mono (by simp)
  · exact (hquery.append (State.sameExcept_raise _ _ _ _ _)).mono (by simp)

theorem pollKeys_mem : (pollKeys x s).mem = s.mem := by
  rcases pollKeys_cases s x with ⟨K, -, hpoll⟩ | ⟨K, k, -, -, hpoll⟩ | ⟨-, hpoll⟩ <;> simp [hpoll]

end pollKeys

/-- Taking an event off the list changes no query's answer. -/
theorem State.sampleKeys_afterEvent (s : State) : s.afterEvent.sampleKeys.1 = s.sampleKeys.1 :=
  State.sampleKeys_congr rfl rfl

theorem State.askRenderer_afterEvent (s : State) : s.afterEvent.askRenderer.1 = s.askRenderer.1 :=
  State.askRenderer_congr rfl rfl

/-- A query after the event was taken changes the environment's lists only (log 1, 2). -/
theorem State.sameExcept_afterEvent_sampleKeys (s : State) :
    SameExcept [.events, .keysIn, .draws] s s.afterEvent.sampleKeys.2 :=
  (s.sameExcept_afterEvent.append s.afterEvent.sameExcept_sampleKeys).mono (by simp)

/-- The address a failing poll records is two before PC (60_exceptions.md R311, log 8). -/
theorem waitAddr_add_two (s : State) : ((waitAddr s).toNat + 2) % Config.memSize = s.pc.toNat % Config.memSize := by
  rw [waitAddr_toNat]
  simp only [Config.memSize]
  omega

theorem waitAddr_lt (s : State) : (waitAddr s).toNat < Config.memSize := by
  rw [waitAddr_toNat]
  exact Nat.mod_lt _ (by decide)

/-! ### A jump to itself -/

/-- Writing PC's own value changes nothing. -/
theorem State.setPc_self {s : State} {n : Nat} (h : s.pc.toNat = n) (hn : n < Config.memSize) : s.setPc n = s := by
  have hpc : BitVec.ofNat 16 (n % Config.memSize) = s.pc := by
    rw [Nat.mod_eq_of_lt hn, ← h, BitVec.ofNat_toNat, BitVec.setWidth_eq]
  rw [State.setPc, hpc]

/-- With no transition listed there is none to take. -/
theorem State.afterEvent_of_nil {s : State} (h : s.events = []) : s.afterEvent = s := by
  have htail : s.events.tail = s.events := by rw [h]; rfl
  rw [State.afterEvent, htail]

end Sys2Proof.Machine

namespace Sys2Proof.Proofs

open Sys2Proof.Machine Sys2Proof.Claims

/-- Settles O4: error entry on the state from which the Step was taken (`step_of_illegalWord`). -/
theorem decodeErrorRecordsWordAndAddress : Obligations.DecodeErrorRecordsWordAndAddress := fun s hs hw =>
  ⟨_, step_of_illegalWord hs hw, rfl, s.sameExcept_afterEvent.haltedWith_raise _ _ _ _⟩

/-- Settles O9: a Step in mode Running that fetches a legal word is `exec` of its instruction (`step_of_decode`). -/
theorem stepRunsDecodedInstruction : Obligations.StepRunsDecodedInstruction := fun s _ hs hd =>
  ⟨step_of_decode hs hd, rfl, s.sameExcept_afterEvent⟩

/-- Settles O10: every enabled transition answers (`step_answers_of_enabled`), and the two other modes are stuck. -/
theorem transitionsEnabledExactlyWhileRunningOrWaiting :
    Obligations.TransitionsEnabledExactlyWhileRunningOrWaiting := by
  refine fun s => ⟨step_answers_of_enabled, fun k hmode => ?_, fun hmode => ?_⟩
  · simp [step, transition, hmode]
  · simp [step, transition, hmode]

/-- Settles O11: a Tick is `State.ticked`; of the Steps only Fx15 writes DT and only Fx18 ST (`exec_dt_eq`,
`exec_st_eq`), and a poll writes neither. -/
theorem tickDecrementsBothTimers : Obligations.TickDecrementsBothTimers := by
  refine ⟨fun s hs he => ⟨_, step_of_tick hs he, tickDown_toNat s.dt, tickDown_toNat s.st, rfl, ?_⟩,
    fun s t he h => ?_⟩
  · exact ((s.sameExcept_afterEvent.append (s.afterEvent.sameExcept_setDt _)).append
      (State.sameExcept_setSt _ _)).mono (by simp)
  · cases step_cases h with
    | illegal => exact ⟨.inl rfl, .inl rfl⟩
    | @instr i _ hs hd hx =>
      constructor
      · by_cases hdt : ∀ x, i ≠ .ldDTV x
        · exact .inl (exec_dt_eq (s := s.afterEvent) hdt hx)
        · obtain ⟨x, rfl⟩ : ∃ x, i = .ldDTV x := by simpa using hdt
          exact .inr ⟨hs.1, x, hd⟩
      · by_cases hst : ∀ x, i ≠ .ldSTV x
        · exact .inl (exec_st_eq (s := s.afterEvent) hst hx)
        · obtain ⟨x, rfl⟩ : ∃ x, i = .ldSTV x := by simpa using hst
          exact .inr ⟨hs.1, x, hd⟩
    | @poll x =>
      have hframe := sameExcept_pollKeys s.afterEvent x
      exact ⟨.inl (hframe .dt (by simp)), .inl (hframe .st (by simp))⟩
    | tick _ htick => exact nomatch he.symm.trans htick
    | cancel _ hcancel => exact nomatch he.symm.trans hcancel

/-- Settles O12: a Cancel is one write of the mode, after its event is taken off the list. -/
theorem cancelStopsTheCore : Obligations.CancelStopsTheCore := fun s hs he =>
  ⟨_, step_of_cancel hs he, rfl, rfl, s.sameExcept_afterEvent.append (s.afterEvent.sameExcept_setMode _)⟩

/-- Settles O13: the lowest key newly down goes to Vx and the mode to Running (`pollKeys_of_new`). -/
theorem pollWithNewKeyEndsTheWait : Obligations.PollWithNewKeyEndsTheWait := by
  intro s x K k hs hK hk hleast
  have hpoll := pollKeys_of_new (s := s.afterEvent) x (s.sampleKeys_afterEvent.trans hK) hk hleast
  refine ⟨_, (step_of_aboutToPoll hs).trans (congrArg _ hpoll), ?_, rfl, fun r hr => ?_, ?_, ?_, ?_⟩
  · have hlt : k < 16 := hk.1
    rw [State.setMode_reg, State.reg_setReg_self, BitVec.toNat_ofNat, Nat.mod_eq_of_lt (by omega)]
  · simp [State.reg_setReg_ne _ _ hr]
  · simp
  · simp
  · exact ((s.sameExcept_afterEvent_sampleKeys.append (State.sameExcept_setReg _ x _)).append
      (State.sameExcept_setMode _ _)).mono (by simp)

/-- Settles O14: the sample goes to kw_prev and nothing ends the wait (`pollKeys_of_noneNew`). -/
theorem pollWithoutNewKeyGoesOnWaiting : Obligations.PollWithoutNewKeyGoesOnWaiting := by
  intro s x K hs hK hnone
  have hpoll := pollKeys_of_noneNew (s := s.afterEvent) x (s.sampleKeys_afterEvent.trans hK) hnone
  refine ⟨_, (step_of_aboutToPoll hs).trans (congrArg _ hpoll), rfl, ?_, ?_, ?_, ?_⟩
  · simpa using hs.1
  · simp
  · simp
  · exact (s.sameExcept_afterEvent_sampleKeys.append (State.sameExcept_setKwPrev _ K)).mono (by simp)

/-- Settles O15: error entry with the address two before PC (`waitAddr_add_two`), after the failed query. -/
theorem pollWithFailedQueryHalts : Obligations.PollWithFailedQueryHalts := by
  intro s x hs hfail
  have hpoll := pollKeys_of_failure (s := s.afterEvent) x (s.sampleKeys_afterEvent.trans hfail)
  exact ⟨_, waitAddr s.afterEvent, (step_of_aboutToPoll hs).trans (congrArg _ hpoll), waitAddr_lt _,
    waitAddr_add_two s.afterEvent, s.sameExcept_afterEvent_sampleKeys.haltedWith_raise _ _ _ _⟩

/-- Settles O16: by the transition; an instruction that raised an error halts, and one that completes keeps the mode
unless it is Fx0A. -/
theorem modeChangesOnlyAsDescribed : Obligations.ModeChangesOnlyAsDescribed := by
  refine ⟨fun s t hrun h => ?_, fun s t x hwait h => ?_⟩
  · cases step_cases h with
    | illegal hs => exact .inr (.inr (.inl ⟨_, rfl, hs.2⟩))
    | instr hs hd hx =>
      rcases exec_cases hx with hraised | hdone
      · obtain ⟨k, hk, -⟩ := hraised.halted
        exact .inr (.inr (.inl ⟨k, hk, hs.2⟩))
      · rcases hdone.mode with hmode | ⟨x, rfl, hmode⟩
        · exact .inl (hmode.trans hrun)
        · exact .inr (.inl ⟨x, hmode, hs.2, hd⟩)
    | poll hs => exact nomatch hrun.symm.trans hs.1
    | tick => exact .inl hrun
    | cancel _ he => exact .inr (.inr (.inr ⟨rfl, he⟩))
  · cases step_cases h with
    | illegal hs | instr hs => exact nomatch hwait.symm.trans hs.1
    | @poll y hs =>
      rcases pollKeys_cases s.afterEvent y with ⟨K, -, hpoll⟩ | ⟨K, k, hK, hk, hpoll⟩ | ⟨hfail, hpoll⟩ <;> rw [hpoll]
      · exact .inl (by simpa using hwait)
      · exact .inr (.inl ⟨rfl, hs.2, K, k, s.sampleKeys_afterEvent.symm.trans hK, hk⟩)
      · exact .inr (.inr (.inl ⟨rfl, hs.2, s.sampleKeys_afterEvent.symm.trans hfail⟩))
    | tick => exact .inl hwait
    | cancel _ he => exact .inr (.inr (.inr ⟨rfl, he⟩))

/-- Settles O17: the jump writes PC's own value (`State.setPc_self`), and there is no event to take. -/
theorem selfJumpIsFixedPoint : Obligations.SelfJumpIsFixedPoint := by
  intro s nnn hrun hevents hpc hd
  have hs : AboutToStep s := ⟨hrun, by rw [State.nextEvent, hevents]; rfl⟩
  rw [step_of_decode hs hd, exec_jp, State.afterEvent_of_nil hevents, State.setPc_self hpc (addr_lt nnn)]

end Sys2Proof.Proofs
end

section
/-! SUPPORT. Proofs for what every step keeps: the invariant of the machine, the font region and the presented
framebuffers, each by the transition the step makes (`step_cases`). -/

namespace Sys2Proof.Machine

open Sys2Proof.Claims

/-! ### The font region -/

/-- Stores clear of the font region leave its bytes (20_memory.md R66). -/
theorem StoredClear.read_font {i : Instr} {s t : State} (h : StoredClear i s t) {a : Nat}
    (ha : FontAddr (a % Config.memSize)) : t.mem.read a = s.mem.read a := by
  obtain ⟨bs, -, hclear, hmem⟩ := h
  rw [hmem]
  refine s.mem.read_writeBytes_other _ _ _ fun k hk heq => hclear k hk ?_
  rwa [heq] at ha

theorem exec_read_font {i : Instr} {s t : State} (h : exec i s = .next t) {a : Nat}
    (ha : FontAddr (a % Config.memSize)) : t.mem.read a = s.mem.read a := by
  rcases exec_cases h with hraised | hdone
  · rw [hraised.mem_eq]
  · exact hdone.mem.read_font ha

/-- An instruction but Dxyn presents nothing (44_display.md R257). -/
theorem exec_presented_eq {i : Instr} {s t : State} (hdrw : ∀ x y n, i ≠ .drw x y n) (h : exec i s = .next t) :
    t.presented = s.presented := by
  refine exec_frame h .presented ?_
  cases i
  case drw x y n => exact absurd rfl (hdrw x y n)
  all_goals simp [mayWrite]

/-! ### The parts of the invariant -/

theorem pcPlus_lt (s : State) (k : Nat) : pcPlus s k < Config.memSize := Nat.mod_lt _ (by decide)

/-- PC after an instruction that completes is reduced (10_state.md R23). -/
theorem pc_lt_of_pcAsTabled {i : Instr} {s t : State} (h : PcAsTabled i s t) : t.pc.toNat < Config.memSize := by
  have hmod : ∀ n, n % Config.memSize < Config.memSize := fun n => Nat.mod_lt n (by decide)
  cases i
  case jp | call | jpV0 => exact h.trans_lt (hmod _)
  case ret =>
    obtain ⟨r, -, h⟩ := h
    exact h.trans_lt (hmod _)
  case seVB | sneVB | seVV | sneVV =>
    simp only [PcAsTabled] at h
    split at h <;> exact h.trans_lt (pcPlus_lt s _)
  case skp | sknp => rcases h with h | h <;> exact h.trans_lt (pcPlus_lt s _)
  all_goals exact Eq.trans_lt h (pcPlus_lt s 2)

theorem stack_length_of_stackMoved {s t : State} (h : StackMoved s t) (hs : s.stack.length ≤ Config.stackDepth) :
    t.stack.length ≤ Config.stackDepth := by
  rcases h with h | h | ⟨hroom, h⟩ <;> rw [h]
  · exact hs
  · rw [List.length_dropLast]; omega
  · rw [List.length_append, List.length_singleton]; omega

theorem stack_lt_of_stackMoved {s t : State} (h : StackMoved s t) (hs : ∀ r ∈ s.stack, r.toNat < Config.memSize) :
    ∀ r ∈ t.stack, r.toNat < Config.memSize := by
  intro r hr
  rcases h with h | h | ⟨-, h⟩ <;> rw [h] at hr
  · exact hs r hr
  · exact hs r (List.mem_of_mem_dropLast hr)
  · rcases List.mem_append.1 hr with hr | hr
    · exact hs r hr
    · rw [List.mem_singleton.1 hr, State.advance_pc_toNat]
      exact pcPlus_lt s 2

/-- In every mode but Halted the record is empty (10_state.md R35). -/
theorem errAgrees_iff_err_eq_none {s : State} (h : ∀ k, s.mode ≠ .halted k) : s.errAgrees ↔ s.err = none := by
  unfold State.errAgrees
  split
  case h_1 k hk => exact absurd hk (h k)
  case h_2 => exact Iff.rfl

theorem not_halted_of_enabled {s : State} (h : Enabled s) (k : ErrorKind) : s.mode ≠ .halted k := by
  rcases h with h | ⟨x, h⟩ <;> simp [h]

/-- Error entry makes the record agree with the mode, for every kind but LoadOverflow (60_exceptions.md R315, R316). -/
theorem State.errAgrees_raise (s : State) {k : ErrorKind} (hk : k ≠ .loadOverflow) (pc word : Option Word)
    (info : ErrorInfo) : (s.raise k pc word info).errAgrees := ⟨hk, _, rfl, rfl, rfl⟩

theorem ne_loadOverflow_of_mayRaise {i : Instr} {k : ErrorKind} (h : k ∈ mayRaise i) : k ≠ .loadOverflow := by
  rintro rfl
  simpa using mayRaise_subset i h

/-- The font region lies below MEM_SIZE, so the reduction keeps an address in it (20_memory.md R66). -/
theorem fontAddr_mod_of_inFont {a : Nat} (h : inFont a = true) : FontAddr (a % Config.memSize) := by
  have hfont := inFont_iff.1 h
  rwa [Nat.mod_eq_of_lt (hfont.2.trans (by decide))]

namespace State.Inv

variable {s t : State} (h : s.Inv)
include h

/-- A state with the same stack and memory satisfies the invariant when PC and the record do. -/
theorem of_eq (hpc : t.pc.toNat < Config.memSize) (hstack : t.stack = s.stack) (hmem : t.mem = s.mem)
    (herr : t.errAgrees) : t.Inv where
  pc_lt := hpc
  stack_length := hstack ▸ h.stack_length
  stack_lt := hstack ▸ h.stack_lt
  mem_wf := hmem ▸ h.mem_wf
  font := hmem ▸ h.font
  err_agrees := herr

theorem err_eq_none (hs : Enabled s) : s.err = none :=
  (errAgrees_iff_err_eq_none (not_halted_of_enabled hs)).1 h.err_agrees

theorem raised {i : Instr} (ht : Raised i s t) : t.Inv := by
  refine h.of_eq (ht.pc_eq ▸ h.pc_lt) ht.stack_eq ht.mem_eq ?_
  obtain ⟨_, q, k, info, _, _, hk, rfl⟩ := ht
  exact q.errAgrees_raise (ne_loadOverflow_of_mayRaise hk) _ _ _

theorem completed {i : Instr} (hrun : s.mode = .running) (ht : Completed i s t) : t.Inv where
  pc_lt := pc_lt_of_pcAsTabled ht.pc
  stack_length := stack_length_of_stackMoved ht.stack h.stack_length
  stack_lt := stack_lt_of_stackMoved ht.stack h.stack_lt
  mem_wf := by
    obtain ⟨bs, -, -, hmem⟩ := ht.mem
    rw [hmem]
    exact Memory.wf_writeBytes _ _ h.mem_wf
  font a ha := (ht.mem.read_font (fontAddr_mod_of_inFont ha)).trans (h.font a ha)
  err_agrees := (errAgrees_iff_err_eq_none (ht.not_halted hrun)).2 (ht.err.trans (h.err_eq_none (.inl hrun)))

/-- A poll keeps the invariant: a failed query makes the record, and otherwise there is still none. -/
theorem polled {x : RegIx} (hs : s.mode = .awaitingKey x) : (pollKeys x s).Inv := by
  have hframe := sameExcept_pollKeys s x
  refine h.of_eq ((hframe .pc (by simp)).symm ▸ h.pc_lt) (hframe .stack (by simp)) (pollKeys_mem s x) ?_
  have herr := h.err_eq_none (.inr ⟨x, hs⟩)
  rcases pollKeys_cases s x with ⟨K, -, hpoll⟩ | ⟨K, k, -, -, hpoll⟩ | ⟨-, hpoll⟩ <;> rw [hpoll]
  · exact (errAgrees_iff_err_eq_none (by simp [hs])).2 (by simpa using herr)
  · exact (errAgrees_iff_err_eq_none (by simp)).2 (by simpa using herr)
  · exact State.errAgrees_raise _ (by simp) _ _ _

theorem afterEvent : s.afterEvent.Inv := h.of_eq h.pc_lt rfl rfl h.err_agrees

theorem ticked : s.ticked.Inv := h.of_eq h.pc_lt rfl rfl h.err_agrees

theorem cancelled (hs : Enabled s) : s.cancelled.Inv := h.of_eq h.pc_lt rfl rfl (h.err_eq_none hs)

end State.Inv

end Sys2Proof.Machine

namespace Sys2Proof.Proofs

open Sys2Proof.Machine Sys2Proof.Claims

/-- Settles O23: by the transition; an instruction either raised an error (`State.Inv.raised`) or completed
(`State.Inv.completed`). -/
theorem stepKeepsInvariant : Obligations.StepKeepsInvariant := by
  intro s t hinv h
  have hafter := hinv.afterEvent
  cases step_cases h with
  | illegal => exact hafter.of_eq hafter.pc_lt rfl rfl (State.errAgrees_raise _ (by simp) _ _ _)
  | instr hs hd hx =>
    rcases exec_cases hx with hraised | hdone
    · exact hafter.raised hraised
    · exact hafter.completed hs.1 hdone
  | poll hs => exact hafter.polled hs.1
  | tick => exact hafter.ticked
  | cancel hs => exact hafter.cancelled hs

/-- Settles O25: only an instruction writes memory, and its stores are clear of the font region
(`StoredClear.read_font`). -/
theorem fontRegionIsNeverMutated : Obligations.FontRegionIsNeverMutated := by
  intro s t a h ha
  cases step_cases h with
  | instr _ _ hx => exact exec_read_font hx ha
  | @poll x => rw [pollKeys_mem]; rfl
  | illegal | tick | cancel => rfl

/-- Settles O26: a Dxyn presents the framebuffer it left when the renderer answers success and nothing when it fails; no
other instruction and no other transition presents. -/
theorem onlyDrawPresents : Obligations.OnlyDrawPresents := by
  intro s t h
  cases step_cases h with
  | illegal _ hd => exact .inl ⟨rfl, fun ⟨⟨x, y, n, hdrw⟩, _⟩ => nomatch hd.symm.trans hdrw⟩
  | @instr i _ hs hd hx =>
    by_cases hdrw : ∀ x y n, i ≠ .drw x y n
    · refine .inl ⟨exec_presented_eq (s := s.afterEvent) hdrw hx, fun ⟨⟨x, y, n, hd'⟩, _⟩ => ?_⟩
      exact hdrw x y n (by simpa [hd] using hd')
    · obtain ⟨x, y, n, rfl⟩ : ∃ x y n, i = .drw x y n := by simpa using hdrw
      cases hask : s.askRenderer.1 with
      | value _ =>
        cases (exec_drw_of_value (s.askRenderer_afterEvent.trans hask)).symm.trans hx
        exact .inr ⟨s.afterEvent.afterDraw_presented x y n, ⟨x, y, n, hd⟩, hs, rfl⟩
      | failure =>
        cases (exec_drw_of_failure (s.askRenderer_afterEvent.trans hask)).symm.trans hx
        exact .inl ⟨by simp, fun ⟨_, _, hvalue⟩ => nomatch hvalue⟩
  | @poll x hs =>
    refine .inl ⟨sameExcept_pollKeys s.afterEvent x .presented (by simp), fun ⟨_, hstep, _⟩ => ?_⟩
    exact nomatch hs.1.symm.trans hstep.1
  | tick _ he => exact .inl ⟨rfl, fun ⟨_, hstep, _⟩ => nomatch he.symm.trans hstep.2⟩
  | cancel _ he => exact .inl ⟨rfl, fun ⟨_, hstep, _⟩ => nomatch he.symm.trans hstep.2⟩

end Sys2Proof.Proofs
end

section
/-! SUPPORT. Proofs for 70_reset_and_hazards.md R350: the reset memory byte by byte, and the image that construction
lays over it. -/

namespace Sys2Proof.Machine

open Sys2Proof.Claims

/-! ### The reset memory -/

/-- After reset the font region holds FONT_DATA (44_display.md R258). -/
theorem Memory.read_nil_font {j : Nat} (hj : j < Config.fontData.length) :
    Memory.read [] (Config.fontBase + j) = Config.fontData[j] := by
  have hsize : j < Config.fontSize := hj
  have hlt : Config.fontBase + j < Config.memSize := by
    simp only [Config.fontBase, Config.fontSize, Config.memSize] at *
    omega
  have hfont : inFont (Config.fontBase + j) = true := inFont_iff.2 ⟨by omega, by omega⟩
  rw [Memory.read_nil, Nat.mod_eq_of_lt hlt, Memory.unlisted_font hfont, Nat.add_sub_cancel_left,
    List.getD_eq_getElem _ _ hj]

/-- After reset every byte outside the font region is 0x00 (20_memory.md R69). -/
theorem Memory.read_nil_free {a : Nat} (ha : a < Config.memSize) (hfont : ¬ FontAddr a) : Memory.read [] a = 0x00 := by
  rw [Memory.read_nil, Nat.mod_eq_of_lt ha, Memory.unlisted_free (Bool.eq_false_iff.2 fun h => hfont (inFont_iff.1 h))]
  rfl

/-- The state after reset satisfies the invariant. -/
theorem State.inv_reset : State.reset.Inv where
  pc_lt := by decide
  stack_length := by decide
  stack_lt := by simp [State.reset]
  mem_wf := Memory.wf_reset
  font a ha := by
    have hlt : a < Config.memSize := (inFont_iff.1 ha).2.trans (by decide)
    show Memory.read [] a = Memory.unlisted a
    rw [Memory.read_nil, Nat.mod_eq_of_lt hlt]
  err_agrees := rfl

/-! ### Construction -/

theorem construct_of_fits {rom : List Byte} (h : rom.length ≤ Config.memSize - Config.programOffset) :
    construct rom = .ok (State.reset.withImage rom) := by
  rw [construct, if_pos (by simpa [imageFits] using h)]

theorem construct_of_tooLong {rom : List Byte} (h : Config.memSize - Config.programOffset < rom.length) :
    construct rom = .error (loadOverflowRecord rom.length) := by
  rw [construct, if_neg (by simpa [imageFits] using h)]

section withImage

variable {rom : List Byte} (h : rom.length ≤ Config.memSize - Config.programOffset)
include h

/-- The image stands verbatim from PROGRAM_OFFSET on (20_memory.md R68). -/
theorem State.read_withImage_at (s : State) {j : Nat} (hj : j < rom.length) :
    (s.withImage rom).mem.read (Config.programOffset + j) = rom[j] :=
  s.mem.read_writeBytes_at _ j rom hj (h.trans (Nat.sub_le _ _))

/-- The image does not wrap, so a byte outside it is as before. -/
theorem State.read_withImage_other (s : State) {a : Nat} (ha : a < Config.memSize)
    (hout : ¬ (Config.programOffset ≤ a ∧ a < Config.programOffset + rom.length)) :
    (s.withImage rom).mem.read a = s.mem.read a := by
  refine s.mem.read_writeBytes_other _ _ _ fun k hk heq => hout ?_
  simp only [Config.memSize, Config.programOffset] at *
  omega

end withImage

end Sys2Proof.Machine

namespace Sys2Proof.Proofs

open Sys2Proof.Machine Sys2Proof.Claims

/-- Settles O24: the reset memory is the empty list, whose font region reads as FONT_DATA by definition. -/
theorem resetSatisfiesInvariant : Obligations.ResetSatisfiesInvariant := State.inv_reset

/-- Settles O28: construction decides on the length alone. -/
theorem constructionRejectsLongImages : Obligations.ConstructionRejectsLongImages :=
  fun _ => ⟨construct_of_tooLong, fun h => ⟨_, construct_of_fits h⟩⟩

/-- Settles O29: the reset memory with the image written over it (`State.read_withImage_at`,
`State.read_withImage_other`); the font region lies below the image. -/
theorem constructionPlacesImage : Obligations.ConstructionPlacesImage := by
  refine fun rom h => ⟨_, construct_of_fits h, State.sameExcept_setMem _ _, Memory.wf_writeBytes _ _ Memory.wf_reset,
    fun j hj => State.read_withImage_at h _ hj, fun j hj => ?_, fun a ha hfont hout => ?_⟩
  · have hsize : j < Config.fontSize := hj
    rw [State.read_withImage_other h]
    · exact Memory.read_nil_font hj
    all_goals
      simp only [Config.fontBase, Config.fontSize, Config.memSize, Config.programOffset] at *
      omega
  · rw [State.read_withImage_other h _ ha hout]
    exact Memory.read_nil_free ha hfont

/-- Settles O30: the fields as State.reset gives them, the registers and pixels read one by one, and the reset memory
(`Memory.read_nil_font`, `Memory.read_nil_free`). -/
theorem resetStateValues : Obligations.ResetStateValues := by
  refine ⟨fun r => ?_, rfl, rfl, rfl, rfl, rfl, rfl, rfl, rfl, Framebuffer.pixel_blank, rfl,
    fun j hj => Memory.read_nil_font hj, fun a hlow hhigh => Memory.read_nil_free hhigh fun hfont => ?_⟩
  · simp [State.reg, State.reset]
  · exact absurd hfont.2 (Nat.not_lt.2 hlow)

end Sys2Proof.Proofs
end
